-- ==== Sys2Proof/Word.lean ====
section
/-! DEFINITION. The word types of CRCFP (spec/00_scope.md R11): every value is an unsigned bit vector of a stated width. -/

namespace Sys2Proof

/-- A data word on the bus, and a command word (R11, R59). -/
abbrev Word := BitVec 32

/-- A CRC value, and LEN (R11). -/
abbrev Half := BitVec 16

/-- A byte of the frame buffer, and the sum value (R11). -/
abbrev Byte := BitVec 8

/-- A bus address: a byte offset from BASE, 0x000..0xFFF (R11, R39). -/
abbrev Offset := BitVec 12

end Sys2Proof
end

