-- ==== Sys2Proof/Config.lean ====
section
/-! DEFINITION. What one implementation of CRCFP fixes (spec/00_scope.md R6 to R9) and the free contents of the frame
buffer after power-on (spec/10_state.md R37). The OPEN parameters are opaque constants with no body: whatever is proved
holds for every legal value of them. -/

namespace Sys2Proof

/-- BUF_CAP: the capacity of FB in bytes (R6). -/
def Config.bufCap : Nat := 512

/-- How far MIN_LEN lies above its least legal value 32 (R7: 32 <= MIN_LEN <= 512). DESIGN CHOICE, log entry 8: a number
of 0..480 that nothing can evaluate. -/
opaque Config.minLenAbove : Fin 481

/-- MIN_LEN, the OPEN parameter of R7: any value of 32..512. -/
def Config.minLen : Nat := Config.minLenAbove.val + 32

/-- REQ_TEMPLATE, the OPEN parameter of R8: the byte BUILD writes at a template offset. Only the offsets 1..6 and 11..25
are ever asked for. DESIGN CHOICE, log entry 9. -/
opaque Config.template : Nat → Byte

/-- BASE, the OPEN parameter of R9: the system address of the window's first byte. DESIGN CHOICE, log entry 10. -/
opaque Config.base : Nat

/-- What FB byte `i` holds after the `k`-th power-on until something writes it (R37, R115, U1): unspecified, so a free
value. DESIGN CHOICE, log entry 5. -/
opaque Config.powerOnByte : Nat → Nat → Byte

end Sys2Proof
end

