-- ==== Sys2Proof/Syntax.lean ====
section
/-! DEFINITION. The eight commands (spec/30_encoding.md R59, R60): one constructor per row of spec/opcode_table.json,
and the names of their opcodes and operand formats. -/

namespace Sys2Proof

/-- A command. `start` and `count` are an FB index and a byte count (R61); `WellFormed` bounds them by their fields. -/
inductive Instr where
  /-- CRC_SEED imm16 (R72). -/
  | crcSeed (imm16 : Half)
  /-- CRC_BYTE imm8 (R73). -/
  | crcByte (imm8 : Byte)
  /-- CRC_RANGE start, count (R74). -/
  | crcRange (start count : Nat)
  /-- SUM_SEED imm8 (R76). -/
  | sumSeed (imm8 : Byte)
  /-- SUM_BYTE imm8 (R77). -/
  | sumByte (imm8 : Byte)
  /-- SUM_RANGE start, count (R78). -/
  | sumRange (start count : Nat)
  /-- BUILD (R80). -/
  | build
  /-- PARSE (R83). -/
  | parse
deriving DecidableEq, Repr

/-- The eight defined opcodes (R60). -/
inductive Opcode where
  | crcSeed | crcByte | crcRange | sumSeed | sumByte | sumRange | build | parse
deriving DecidableEq, Repr

/-- The four operand formats (R59). -/
inductive Format where
  | i16 | i8 | rng | none
deriving DecidableEq, Repr

/-- Why a word is no command (R62, R63); both are the result code IllegalCommand. -/
inductive DecodeError where
  /-- The opcode is 0x00 or 0x09..0xFF (R63). -/
  | reservedOpcode
  /-- A defined opcode with a bit set that its format reserves (R62). -/
  | reservedBits
deriving DecidableEq, Repr

/-- The opcode a command is written with (R60). -/
def Instr.opcode : Instr → Opcode
  | .crcSeed _ => .crcSeed
  | .crcByte _ => .crcByte
  | .crcRange _ _ => .crcRange
  | .sumSeed _ => .sumSeed
  | .sumByte _ => .sumByte
  | .sumRange _ _ => .sumRange
  | .build => .build
  | .parse => .parse

end Sys2Proof
end

