-- ==== Sys2Proof/Machine/State.lean ====
section
/-! DEFINITION. The state of CRCFP (spec/10_state.md R16): its registers, the hidden PENDING register, the frame buffer;
and, marked as the model's own, the host and scheduler beside it. Data only; what acts on it is in the other files of
Machine/. -/

namespace Sys2Proof.Machine

/-- The result codes of STATUS.RESULT (spec/60_exceptions.md R96). Codes 8..15 are never produced (U6), so they have no
constructor. -/
inductive ResultCode where
  | ok
  | truncatedFrame
  | badStartMarker
  | checksumMismatch
  | crcMismatch
  | badEndMarker
  | illegalCommand
  | rangeError
deriving DecidableEq, Repr

/-- STATUS (R19 to R25). Its reserved bits read 0 and ignore writes, so they are not stored. -/
structure Status where
  /-- Bit 0 (R20). -/
  busy : Bool
  /-- Bit 1 (R21). -/
  done : Bool
  /-- Bit 2 (R22). -/
  valid : Bool
  /-- Bit 3 (R23). -/
  ovr : Bool
  /-- Bit 4 (R24). -/
  aerr : Bool
  /-- Bits 11:8 (R25). -/
  result : ResultCode
deriving DecidableEq, Repr

/-- The payload view registers VIEW0, VIEW1, RESP_SN, RESP_TOT and RESP_DAY (R26 to R29). -/
structure View where
  /-- VIEW0[7:0] (R26). -/
  unit : Byte
  /-- VIEW0[15:8] (R26). -/
  func : Byte
  /-- VIEW0[23:16] (R26). -/
  plen : Byte
  /-- VIEW1[15:0] (R27). -/
  declen : Half
  /-- RESP_SN (R28). -/
  respSn : Word
  /-- RESP_TOT (R29). -/
  respTot : Word
  /-- RESP_DAY (R29). -/
  respDay : Word
deriving DecidableEq, Repr

/-- All view registers zero: after reset (R26 to R29) and after a reject (R91). -/
def View.zero : View :=
  { unit := 0, func := 0, plen := 0, declen := 0, respSn := 0, respTot := 0, respDay := 0 }

/-- FB: the bytes written since power-on, as (index, byte) with rising indexes. An unlisted index has not been written,
and reads as no value at this level (log entry 5). -/
abbrev Memory := List Host.Cell

/-- The port's `size[1:0]` (spec/20_memory.md R40). -/
inductive Size where
  | byte | half | word | reserved
deriving DecidableEq, Repr

/-- One action of the host: a bus access (R40), or the WAIT poll (spec/30_encoding.md R67). -/
inductive HostOp where
  | read (addr : Offset) (size : Size)
  | write (addr : Offset) (size : Size) (wdata : Word)
  | wait
deriving DecidableEq, Repr

/-- Who moves next (spec/00_scope.md R14), the reset input among them (spec/70_reset_and_hazards.md R113, R115). -/
inductive Turn where
  | host | engine | rst | powerOn
deriving DecidableEq, Repr

/-- The machine. -/
structure State where
  /-- PENDING, the latched command word (R18). -/
  pending : Option Word
  /-- STATUS (R19). -/
  status : Status
  /-- CTRL.IE (R30). -/
  ie : Bool
  /-- CRC[15:0] (R32). -/
  crc : Half
  /-- SUM[7:0] (R33). -/
  sum : Byte
  /-- LEN[15:0] (R35). -/
  len : Half
  /-- SERIAL (R36). -/
  serial : Word
  /-- The payload view (R26 to R29). -/
  view : View
  /-- FB (R37). -/
  fb : Memory
  /-- MODEL's own: the number of earlier power-ons; selects the free contents of never-written FB bytes (log entry 6). -/
  powerOns : Nat
  /-- MODEL's own: the record R115 asks for, that a never-written FB byte has been read (log entries 5 and 6). -/
  unwrittenRead : Bool
  /-- MODEL's own: what the host has still to do, oldest first (log entry 3). -/
  hostOps : List HostOp
  /-- MODEL's own: the scheduler's choices, the next first (log entry 1). -/
  turns : List Turn
  /-- The port's `rdata` of the host's last access (R40): none for a write or before any access (log entry 4). -/
  rdata : Option Word
deriving DecidableEq, Repr

/-- The one reason for the machine to stop. -/
inductive Fault where
  /-- BUSY = 1 with PENDING empty, so that the engine has no word to decode. Raised by `engineStep` alone. R18 and R58
  rule such a state out and no run reaches it, so this is safe (log entry 12). -/
  | busyWithoutCommand
deriving DecidableEq, Repr

/-- No meaning. -/
inductive Refusal where
  /-- Raised by an arm of `exec` that has no meaning yet; no arm is left so. Safe. -/
  | notModelled (mnemonic : String)
deriving DecidableEq, Repr

/-- STATUS after reset: 0x00000000 (spec/10_state.md section 8). -/
def Status.zero : Status :=
  { busy := false, done := false, valid := false, ovr := false, aerr := false, result := .ok }

/-- The machine after power-on and the first reset (spec/10_state.md section 8, R113, R115): no FB byte is written, and
neither the host nor the scheduler has anything listed (log entries 6 and 13). -/
def State.reset : State :=
  { pending := none
    status := Status.zero
    ie := false
    crc := 0xFFFF
    sum := 0
    len := 0
    serial := 0
    view := View.zero
    fb := []
    powerOns := 0
    unwrittenRead := false
    hostOps := []
    turns := []
    rdata := none }

end Sys2Proof.Machine
end

