-- ==== Sys2Proof/Machine/Flags.lean ====
section
/-! DEFINITION. Everything that writes or reads a flag: `finish` (spec/60_exceptions.md R98), the sticky bits (R99,
spec/20_memory.md R47), issuing (spec/30_encoding.md R58), write-1-to-clear (spec/10_state.md R19), the STATUS word and
the interrupt output. There are no arithmetic condition codes (R38). -/

namespace Sys2Proof.Machine

/-- The number of a result code (R96). -/
def ResultCode.code : ResultCode → BitVec 4
  | .ok => 0
  | .truncatedFrame => 1
  | .badStartMarker => 2
  | .checksumMismatch => 3
  | .crcMismatch => 4
  | .badEndMarker => 5
  | .illegalCommand => 6
  | .rangeError => 7

/-- `finish(code)`, the last action of every engine step (R98). -/
def State.finish (code : ResultCode) (s : State) : State :=
  { s with
    pending := none
    status := { s.status with busy := false, done := true, result := code } }

/-- Issue: the latching of an accepted CMD write (R58). -/
def State.latch (w : Word) (s : State) : State :=
  { s with
    pending := some w
    status := { s.status with busy := true, done := false } }

/-- STATUS.AERR <- 1 (R47). -/
def State.setAerr (s : State) : State := { s with status := { s.status with aerr := true } }

/-- STATUS.OVR <- 1 (R99). -/
def State.setOvr (s : State) : State := { s with status := { s.status with ovr := true } }

/-- A write of `w` to STATUS: write 1 to clear DONE, OVR and AERR, and nothing else (R19). -/
def State.clearStatus (w : Word) (s : State) : State :=
  { s with
    status :=
      { s.status with
        done := s.status.done && !w.getLsbD 1
        ovr := s.status.ovr && !w.getLsbD 3
        aerr := s.status.aerr && !w.getLsbD 4 } }

/-- One flag as a word with that bit in place. -/
def flagBit (b : Bool) (k : Nat) : Word := if b then 1 <<< k else 0

/-- STATUS as it is read, reserved bits 0 (R19). -/
def Status.word (st : Status) : Word :=
  flagBit st.busy 0 ||| flagBit st.done 1 ||| flagBit st.valid 2 ||| flagBit st.ovr 3 ||| flagBit st.aerr 4 |||
    (st.result.code.setWidth 32 <<< 8)

/-- A read of STATUS (R19). -/
def State.statusWord (s : State) : Word := s.status.word

/-- The interrupt output: `irq = CTRL.IE & STATUS.DONE` (R101). -/
def State.irq (s : State) : Bool := s.ie && s.status.done

end Sys2Proof.Machine
end

