-- ==== Sys2Proof/Machine/Operands.lean ====
section
/-! DEFINITION. The operand forms: the range operand of the RNG format (spec/30_encoding.md R61), and how bytes make up
a bus word or a multi-byte frame field (spec/20_memory.md R48, R49; spec/00_scope.md R13). -/

namespace Sys2Proof.Machine

/-- A RNG command is in range when `start + count <= BUF_CAP`, the sum taken without overflow (R61). -/
def rangeInFb (start count : Nat) : Bool := decide (start + count ≤ Config.bufCap)

/-- The FB indexes `start .. start + count - 1` in ascending order (R13, R61). -/
def fbRange (start count : Nat) : List Nat := List.range' start count

/-- Bytes of a little-endian word, lowest first: byte `k` is bits `8k+7 : 8k` (R48, R13 LE32). -/
def leWord : List Byte → Word
  | [] => 0
  | b :: bs => (leWord bs <<< 8) ||| b.setWidth 32

/-- The low halfword of a little-endian byte string (R13 LE16). -/
def leHalf (bs : List Byte) : Half := (leWord bs).setWidth 16

/-- Byte `k` of a word: bits `8k+7 : 8k` (R45, R48). -/
def wordByte (v : Word) (k : Nat) : Byte := v.extractLsb' (8 * k) 8

/-- The low `n` bytes of a word, lowest first: what an `n`-byte write stores (R45). -/
def wordBytes (v : Word) (n : Nat) : List Byte := (List.range n).map (wordByte v)

/-- A CRC as the frame holds it, low byte first (R49, R69). -/
def crcBytes (c : Half) : List Byte := [c.extractLsb' 0 8, c.extractLsb' 8 8]

end Sys2Proof.Machine
end

