-- ==== Sys2Proof/Machine/Ops.lean ====
section
/-! DEFINITION. The named operations over the frame buffer and the registers: FB reads and writes, the record of reads of
never-written bytes, PARSE's reject, the reset event and power-on. The block takes no exceptions and has no return from
one (spec/60_exceptions.md R95, R104, R105); the operation that every command shares in their place is `State.finish`. -/

namespace Sys2Proof.Machine

/-- The byte written at an index, if any was. -/
def Memory.lookup : Memory → Nat → Option Byte
  | [], _ => none
  | (k, b) :: m, i => if k = i then some b else Memory.lookup m i

/-- `FB[i] <- b`, keeping the indexes rising. -/
def Memory.write : Memory → Nat → Byte → Memory
  | [], i, b => [(i, b)]
  | (k, c) :: m, i, b =>
    if k < i then (k, c) :: Memory.write m i b
    else if k = i then (i, b) :: m
    else (i, b) :: (k, c) :: m

/-- Bytes stored at ascending indexes from `i`. -/
def Memory.writeBytes : Memory → Nat → List Byte → Memory
  | m, _, [] => m
  | m, i, b :: bs => Memory.writeBytes (m.write i b) (i + 1) bs

/-- Every index is at least `lo`, below BUF_CAP, and above the one before it. -/
def Memory.wfFrom : Nat → Memory → Bool
  | _, [] => true
  | lo, (k, _) :: m => decide (lo ≤ k) && decide (k < Config.bufCap) && Memory.wfFrom (k + 1) m

/-- The canonical form: indexes strictly rising and inside FB (R37). An unlisted index reads as no value, so no entry can
equal it. -/
def Memory.wf (m : Memory) : Bool := Memory.wfFrom 0 m

/-- Whether FB[i] has been written since power-on (U1). -/
def State.fbWritten (s : State) (i : Nat) : Bool := (s.fb.lookup i).isSome

/-- FB[i]: the last byte written (R56), or, where nothing has been written since power-on, a free value (R115, U1; log
entry 5). -/
def State.fbByte (s : State) (i : Nat) : Byte := (s.fb.lookup i).getD (Config.powerOnByte s.powerOns i)

/-- FB[start .. start + count - 1] in ascending order (R13). -/
def State.fbBytes (s : State) (start count : Nat) : List Byte := (fbRange start count).map s.fbByte

/-- The record R115 asks for: reading FB[start .. start + count - 1] while one of its bytes is unwritten sets
`unwrittenRead` (log entry 5). -/
def State.noteReads (start count : Nat) (s : State) : State :=
  { s with unwrittenRead := s.unwrittenRead || (fbRange start count).any fun i => !s.fbWritten i }

/-- Bytes stored into FB from index `start` (R45, R80). -/
def State.storeFb (start : Nat) (bs : List Byte) (s : State) : State := { s with fb := s.fb.writeBytes start bs }

/-- `reject(k)` of PARSE (R91). -/
def State.reject (code : ResultCode) (s : State) : State :=
  State.finish code { s with status := { s.status with valid := false }, view := View.zero }

/-- The payload view of the frame in FB (R90). -/
def State.frameView (s : State) : View :=
  { unit := s.fbByte 25
    func := s.fbByte 26
    plen := s.fbByte 27
    declen := leHalf (s.fbBytes 1 2)
    respSn := leWord (s.fbBytes 7 4)
    respTot := leWord (s.fbBytes 13 4)
    respDay := leWord (s.fbBytes 17 4) }

/-- `accept()` of PARSE (R90). -/
def State.accept (s : State) : State :=
  State.finish .ok { s with status := { s.status with valid := true }, view := s.frameView }

/-- The engine step of a word that is no command: `finish(6)` and nothing else (R62, R63). -/
def State.illegal (s : State) : State := s.finish .illegalCommand

/-- The reset event (R113, R114): every register to its reset value, a latched command discarded, FB as it was. -/
def State.resetEvent (s : State) : State :=
  { s with
    pending := none
    status := Status.zero
    ie := false
    crc := 0xFFFF
    sum := 0
    len := 0
    serial := 0
    view := View.zero }

/-- Power-on and the first reset after it (R115): the registers as after any reset, and every FB byte unspecified afresh
(log entries 6 and 7). -/
def State.powerOnEvent (s : State) : State :=
  { s.resetEvent with fb := [], powerOns := s.powerOns + 1, unwrittenRead := false }

end Sys2Proof.Machine
end

