-- ==== Sys2Proof/Machine/Crc.lean ====
section
/-! DEFINITION. The CRC-16 generator (spec/40_crc.md): its function (R68, R69) and the commands CRC_SEED, CRC_BYTE and
CRC_RANGE (R72 to R74). -/

namespace Sys2Proof.Machine

/-- One of the eight shifts of `crc_step` (R68): the bit shifted out decides whether 0xA001 is XORed in. (C2 settles which
bit is tested; log entry 14.) -/
def crcShift (c : Half) : Half := if c.getLsbD 0 then (c >>> 1) ^^^ 0xA001 else c >>> 1

/-- `k` shifts (R68). -/
def crcShifts : Nat → Half → Half
  | 0, c => c
  | k + 1, c => crcShifts k (crcShift c)

/-- `crc_step(c, b)` (R68). -/
def crcStep (c : Half) (b : Byte) : Half := crcShifts 8 (c ^^^ b.setWidth 16)

/-- `crc16(seed, bytes)` (R69). -/
def crc16 (seed : Half) (bytes : List Byte) : Half := bytes.foldl crcStep seed

/-- The seed of every frame CRC (R69, R88). -/
def crcFrameSeed : Half := 0xFFFF

/-- CRC_SEED imm16 (R72). -/
def execCrcSeed (imm16 : Half) (s : State) : Host.Outcome State Fault Refusal :=
  .next (State.finish .ok { s with crc := imm16 })

/-- CRC_BYTE imm8 (R73). -/
def execCrcByte (imm8 : Byte) (s : State) : Host.Outcome State Fault Refusal :=
  .next (State.finish .ok { s with crc := crcStep s.crc imm8 })

/-- CRC_RANGE start, count (R74). -/
def execCrcRange (start count : Nat) (s : State) : Host.Outcome State Fault Refusal :=
  .next
    (if rangeInFb start count then
      State.finish .ok { s.noteReads start count with crc := crc16 s.crc (s.fbBytes start count) }
    else s.finish .rangeError)

end Sys2Proof.Machine
end

