-- ==== Sys2Proof/Machine/Sum.lean ====
section
/-! DEFINITION. The additive byte sum (spec/41_bytesum.md): its function (R75) and the commands SUM_SEED, SUM_BYTE and
SUM_RANGE (R76 to R78). -/

namespace Sys2Proof.Machine

/-- `sum8(seed, bytes)`: the wrapping 8-bit sum (R75). -/
def sum8 (seed : Byte) (bytes : List Byte) : Byte := bytes.foldl (fun acc b => acc + b) seed

/-- SUM_SEED imm8 (R76). -/
def execSumSeed (imm8 : Byte) (s : State) : Host.Outcome State Fault Refusal :=
  .next (State.finish .ok { s with sum := imm8 })

/-- SUM_BYTE imm8 (R77). -/
def execSumByte (imm8 : Byte) (s : State) : Host.Outcome State Fault Refusal :=
  .next (State.finish .ok { s with sum := s.sum + imm8 })

/-- SUM_RANGE start, count (R78). -/
def execSumRange (start count : Nat) (s : State) : Host.Outcome State Fault Refusal :=
  .next
    (if rangeInFb start count then
      State.finish .ok { s.noteReads start count with sum := sum8 s.sum (s.fbBytes start count) }
    else s.finish .rangeError)

end Sys2Proof.Machine
end

