-- ==== Sys2Proof/Machine/Build.lean ====
section
/-! DEFINITION. The request frame builder (spec/42_frame_build.md R79, R80). The frame is the source's pure function
`build_request(serial) -> bytes[36]`, over the template; BUILD stores it. -/

namespace Sys2Proof.Machine

/-- Offsets 26..31: unit 1, function 3, start register 59 and count 58, big-endian (R79). -/
def requestSubframe : List Byte := [0x01, 0x03, 0x00, 0x3B, 0x00, 0x3A]

/-- Offsets 1..31 (R80 steps 1 and 2): template bytes, the serial number low byte first, template bytes, sub-frame. -/
def requestBody (template : Nat → Byte) (serial : Word) : List Byte :=
  (List.range' 1 6).map template ++ wordBytes serial 4 ++ (List.range' 11 15).map template ++ requestSubframe

/-- The request's CRC, over offsets 26..31 (R80 step 3). -/
def requestCrc : Half := crc16 crcFrameSeed requestSubframe

/-- Offsets 1..33: what the checksum covers (R80 step 4). -/
def requestCovered (template : Nat → Byte) (serial : Word) : List Byte :=
  requestBody template serial ++ crcBytes requestCrc

/-- The request's additive checksum (R80 step 4). -/
def requestSum (template : Nat → Byte) (serial : Word) : Byte := sum8 0 (requestCovered template serial)

/-- Offsets 0..35 (R79). -/
def requestFrame (template : Nat → Byte) (serial : Word) : List Byte :=
  0xA5 :: (requestCovered template serial ++ [requestSum template serial, 0x15])

/-- BUILD for a given template (R80). It reads only bytes it has just written, so no unwritten byte is read. -/
def State.buildWith (template : Nat → Byte) (s : State) : State :=
  State.finish .ok
    { s.storeFb 0 (requestFrame template s.serial) with
      len := 36
      crc := requestCrc
      sum := requestSum template s.serial }

/-- BUILD (R80). -/
def execBuild (s : State) : Host.Outcome State Fault Refusal := .next (s.buildWith Config.template)

end Sys2Proof.Machine
end

