-- ==== Sys2Proof/Machine/Parse.lean ====
section
/-! DEFINITION. The response frame parser (spec/43_frame_parse.md R82 to R92): the checks in the source's order, the first
failing one reported. The declared length, the function code and `LEN = 32 + N` are never checked (R92). Which bytes count
as read for the record of R115 is log entry 15. -/

namespace Sys2Proof.Machine

/-- Check 5, the end marker at LEN - 1 (R89), then `accept()` (R90). -/
def State.parseEnd (s : State) : State :=
  if s.fbByte (s.len.toNat - 1) = 0x15 then (s.noteReads (s.len.toNat - 1) 1).accept
  else (s.noteReads (s.len.toNat - 1) 1).reject .badEndMarker

/-- The residue of check 4: the CRC of FB[25 .. 29 + N], 5 + N bytes, N = FB[27], not bounded by LEN (R88). -/
def State.frameResidue (s : State) : Half := crc16 crcFrameSeed (s.fbBytes 25 (5 + (s.fbByte 27).toNat))

/-- Check 4, the CRC residue (R88). -/
def State.parseCrc (s : State) : State :=
  if s.frameResidue = 0 then
    State.parseEnd { s.noteReads 25 (5 + (s.fbByte 27).toNat) with crc := s.frameResidue }
  else
    State.reject .crcMismatch { s.noteReads 25 (5 + (s.fbByte 27).toNat) with crc := s.frameResidue }

/-- The sum of check 3: the bytes FB[1 .. LEN - 3] (R87). -/
def State.frameSum (s : State) : Byte := sum8 0 (s.fbBytes 1 (s.len.toNat - 3))

/-- Check 3, the additive checksum at LEN - 2 (R87). It reads FB[1 .. LEN - 2]. -/
def State.parseSum (s : State) : State :=
  if s.frameSum = s.fbByte (s.len.toNat - 2) then
    State.parseCrc { s.noteReads 1 (s.len.toNat - 2) with sum := s.frameSum }
  else
    State.reject .checksumMismatch { s.noteReads 1 (s.len.toNat - 2) with sum := s.frameSum }

/-- Check 2, the start marker (R86). -/
def State.parseStart (s : State) : State :=
  if s.fbByte 0 = 0xA5 then (s.noteReads 0 1).parseSum
  else (s.noteReads 0 1).reject .badStartMarker

/-- PARSE for a given MIN_LEN (R83): check 0, capacity (R84); check 1, minimum size (R85); then the rest. -/
def State.parseWith (minLen : Nat) (s : State) : State :=
  if Config.bufCap < s.len.toNat then s.reject .rangeError
  else if s.len.toNat < minLen then s.reject .truncatedFrame
  else s.parseStart

/-- PARSE (R83). -/
def execParse (s : State) : Host.Outcome State Fault Refusal := .next (s.parseWith Config.minLen)

end Sys2Proof.Machine
end

