-- ==== Sys2Proof/Machine/Dispatch.lean ====
section
/-! DEFINITION. The meaning of each command: one arm per constructor of Instr. -/

namespace Sys2Proof.Machine

def exec (i : Instr) (s : State) : Host.Outcome State Fault Refusal :=
  match i with
  | .crcSeed imm16 => Sys2Proof.Machine.execCrcSeed imm16 s
  | .crcByte imm8 => Sys2Proof.Machine.execCrcByte imm8 s
  | .crcRange start count => Sys2Proof.Machine.execCrcRange start count s
  | .sumSeed imm8 => Sys2Proof.Machine.execSumSeed imm8 s
  | .sumByte imm8 => Sys2Proof.Machine.execSumByte imm8 s
  | .sumRange start count => Sys2Proof.Machine.execSumRange start count s
  | .build => Sys2Proof.Machine.execBuild s
  | .parse => Sys2Proof.Machine.execParse s

end Sys2Proof.Machine
end

