-- ==== Sys2Proof/WellFormed.lean ====
section
/-! DEFINITION. Which commands can be written as a word: every operand fits its field (spec/30_encoding.md R61, R66).
`imm16` and `imm8` fit by their type. -/

namespace Sys2Proof

/-- An operand of a RNG field: 12 bits, 0..4095 (R61, R66). -/
def fitsRangeField (n : Nat) : Bool := decide (n ≤ 4095)

/-- The assembler's operand check (R66): "start, count <= 4095". -/
def Instr.wellFormed : Instr → Bool
  | .crcSeed _ => true
  | .crcByte _ => true
  | .crcRange start count => fitsRangeField start && fitsRangeField count
  | .sumSeed _ => true
  | .sumByte _ => true
  | .sumRange start count => fitsRangeField start && fitsRangeField count
  | .build => true
  | .parse => true

end Sys2Proof
end

