-- ==== Sys2Proof/Decode.lean ====
section
/-! DEFINITION. The command words (spec/30_encoding.md R59 to R65): the opcode map with its masks, the decoder, total on
every 32-bit word, and the encoder. A command is exactly one word, so no length is ever worked out (R65). -/

namespace Sys2Proof

/-- The value of `w[31:24]` for a defined opcode (R60). -/
def Opcode.code : Opcode → Byte
  | .crcSeed => 0x01
  | .crcByte => 0x02
  | .crcRange => 0x03
  | .sumSeed => 0x04
  | .sumByte => 0x05
  | .sumRange => 0x06
  | .build => 0x07
  | .parse => 0x08

/-- The opcode with a given value; none for the reserved ones (R60, R63). -/
def Opcode.ofCode (b : Byte) : Option Opcode :=
  match b.toNat with
  | 1 => some .crcSeed
  | 2 => some .crcByte
  | 3 => some .crcRange
  | 4 => some .sumSeed
  | 5 => some .sumByte
  | 6 => some .sumRange
  | 7 => some .build
  | 8 => some .parse
  | _ => Option.none

/-- The operand format of an opcode (R59). -/
def Opcode.format : Opcode → Format
  | .crcSeed => .i16
  | .crcByte => .i8
  | .crcRange => .rng
  | .sumSeed => .i8
  | .sumByte => .i8
  | .sumRange => .rng
  | .build => .none
  | .parse => .none

/-- The bits a format fixes: the opcode and the reserved bits (the mask column of R60). -/
def Format.mask : Format → Word
  | .i16 => 0xFFFF0000
  | .i8 => 0xFFFFFF00
  | .rng => 0xFF000000
  | .none => 0xFFFFFFFF

/-- The mask of an opcode's row (R60). -/
def Opcode.mask (op : Opcode) : Word := op.format.mask

/-- The value a row's masked bits must have (the match column of R60). -/
def Opcode.pattern : Opcode → Word
  | .crcSeed => 0x01000000
  | .crcByte => 0x02000000
  | .crcRange => 0x03000000
  | .sumSeed => 0x04000000
  | .sumByte => 0x05000000
  | .sumRange => 0x06000000
  | .build => 0x07000000
  | .parse => 0x08000000

/-- `op = w[31:24]` (R59). -/
def opField (w : Word) : Byte := w.extractLsb' 24 8

/-- `imm16 = w[15:0]` (R59, R61). -/
def imm16Field (w : Word) : Half := w.extractLsb' 0 16

/-- `imm8 = w[7:0]` (R59, R61). -/
def imm8Field (w : Word) : Byte := w.extractLsb' 0 8

/-- `start = w[23:12]`, unsigned (R59, R61). -/
def startField (w : Word) : Nat := (w.extractLsb' 12 12).toNat

/-- `count = w[11:0]`, unsigned (R59, R61). -/
def countField (w : Word) : Nat := (w.extractLsb' 0 12).toNat

/-- The command of an opcode with the operands of a word (R61). -/
def Opcode.instr (op : Opcode) (w : Word) : Instr :=
  match op with
  | .crcSeed => .crcSeed (imm16Field w)
  | .crcByte => .crcByte (imm8Field w)
  | .crcRange => .crcRange (startField w) (countField w)
  | .sumSeed => .sumSeed (imm8Field w)
  | .sumByte => .sumByte (imm8Field w)
  | .sumRange => .sumRange (startField w) (countField w)
  | .build => .build
  | .parse => .parse

/-- Whether a word has its row's fixed bits: `(w & mask) = match` (R60). -/
def Opcode.fits (op : Opcode) (w : Word) : Bool := w &&& op.mask == op.pattern

/-- The first two checks of R64: the opcode, then the reserved bits. (The third, the range check, is made by the two RNG
commands' meanings, which R74 and R78 give it to as well.) -/
def decode (w : Word) : Except DecodeError Instr :=
  match Opcode.ofCode (opField w) with
  | Option.none => .error .reservedOpcode
  | some op => if op.fits w then .ok (op.instr w) else .error .reservedBits

/-- The operand bits of a command's word (R59). -/
def Instr.operandBits : Instr → Word
  | .crcSeed imm16 => imm16.setWidth 32
  | .crcByte imm8 => imm8.setWidth 32
  | .crcRange start count => BitVec.ofNat 32 start <<< 12 ||| BitVec.ofNat 32 count
  | .sumSeed imm8 => imm8.setWidth 32
  | .sumByte imm8 => imm8.setWidth 32
  | .sumRange start count => BitVec.ofNat 32 start <<< 12 ||| BitVec.ofNat 32 count
  | .build => 0
  | .parse => 0

/-- The assembled word: `op << 24 | fields` (R66). -/
def encode (i : Instr) : Word := i.opcode.pattern ||| i.operandBits

/-- The word whose low `nbits` bits are those of `w`; none when they do not fit the one word a command has (R65). -/
def tableWord (nbits w : Nat) : Option Word :=
  if w % 2 ^ nbits < 4294967296 then some (BitVec.ofNat 32 (w % 2 ^ nbits)) else Option.none

/-- What the decoder reads from a word given as spec/opcode_table.json numbers its bits. -/
def decodeTableWord (nbits w : Nat) : Option Instr :=
  match tableWord nbits w with
  | Option.none => Option.none
  | some v =>
    match decode v with
    | .ok i => some i
    | .error _ => Option.none

end Sys2Proof
end

