-- ==== Sys2Proof/Machine/Bus.lean ====
section
/-! DEFINITION. The slave port (spec/20_memory.md R39 to R51): the address map, which accesses are errors, and the read and
write primitives. Addresses are offsets from BASE (R9). -/

namespace Sys2Proof.Machine

/-- `size[1:0]` (R40). -/
def Size.field : Size → BitVec 2
  | .byte => 0
  | .half => 1
  | .word => 2
  | .reserved => 3

/-- The access size of the port's two bits (R40). -/
def Size.ofField (b : BitVec 2) : Size :=
  match b.toNat with
  | 0 => .byte
  | 1 => .half
  | 2 => .word
  | _ => .reserved

/-- `n = 2^size` (R44). -/
def Size.bytes : Size → Nat
  | .byte => 1
  | .half => 2
  | .word => 4
  | .reserved => 8

/-- CMD (R41). -/
def Offset.cmd : Offset := 0x000
/-- STATUS (R41). -/
def Offset.status : Offset := 0x004
/-- CTRL (R41). -/
def Offset.ctrl : Offset := 0x008
/-- CRC (R41). -/
def Offset.crc : Offset := 0x00C
/-- SUM (R41). -/
def Offset.sum : Offset := 0x010
/-- LEN (R41). -/
def Offset.len : Offset := 0x014
/-- SERIAL (R41). -/
def Offset.serial : Offset := 0x018
/-- VIEW0 (R41). -/
def Offset.view0 : Offset := 0x01C
/-- VIEW1 (R41). -/
def Offset.view1 : Offset := 0x020
/-- RESP_SN (R41). -/
def Offset.respSn : Offset := 0x024
/-- RESP_TOT (R41). -/
def Offset.respTot : Offset := 0x028
/-- RESP_DAY (R41). -/
def Offset.respDay : Offset := 0x02C
/-- PARAM (R41). -/
def Offset.param : Offset := 0x030

/-- The offset of FB byte `i` (R41). -/
def Offset.fb (i : Nat) : Offset := BitVec.ofNat 12 (0x200 + i)

/-- The thirteen register offsets (R41). -/
def regOffsets : List Offset :=
  [Offset.cmd, Offset.status, Offset.ctrl, Offset.crc, Offset.sum, Offset.len, Offset.serial, Offset.view0,
    Offset.view1, Offset.respSn, Offset.respTot, Offset.respDay, Offset.param]

/-- The read-only registers (R42, R46 (g)). -/
def readOnlyOffsets : List Offset :=
  [Offset.crc, Offset.sum, Offset.view0, Offset.view1, Offset.respSn, Offset.respTot, Offset.respDay, Offset.param]

/-- The register region (R42): the bytes of the thirteen registers, the last of which, PARAM, is the 32 bits from 0x030.
R46 (d) says 0x000..0x030 and its (c) begins at 0x034; that the byte offsets 0x031..0x033 in between are PARAM's, where R42
makes a byte or halfword access an error, is DEDUCED, log entry 18. -/
def inRegRegion (a : Offset) : Bool := decide (a.toNat ≤ 0x033)

/-- The FB window 0x200..0x3FF (R43). -/
def inFbWindow (a : Offset) : Bool := decide (0x200 ≤ a.toNat) && decide (a.toNat ≤ 0x3FF)

/-- The reserved ranges 0x034..0x1FF and 0x400..0xFFF (R46 (c)). -/
def inReserved (a : Offset) : Bool :=
  (decide (0x034 ≤ a.toNat) && decide (a.toNat ≤ 0x1FF)) || decide (0x400 ≤ a.toNat)

/-- `addr mod 2^size = 0` (R46 (b)). -/
def aligned (a : Offset) (z : Size) : Bool := a.toNat % z.bytes == 0

/-- `access_error(addr, size, dir)`, its cases (a) to (g) in order (R46); `write` is the port's `we` (R40). -/
def accessError (a : Offset) (z : Size) (write : Bool) : Bool :=
  z == .reserved
    || !aligned a z
    || inReserved a
    || (inRegRegion a && !(z == .word))
    || (inRegRegion a && z == .word && aligned a z && !regOffsets.contains a)
    || (!write && a == Offset.cmd)
    || (write && readOnlyOffsets.contains a)

/-- The FB index at a bus offset: `addr - 0x200` (R44). -/
def fbIndex (a : Offset) : Nat := a.toNat - 0x200

/-- VIEW0 as it is read (R26). -/
def View.word0 (v : View) : Word :=
  v.unit.setWidth 32 ||| (v.func.setWidth 32 <<< 8) ||| (v.plen.setWidth 32 <<< 16)

/-- PARAM for a given MIN_LEN: `{MIN_LEN[15:0], BUF_CAP}` (R31). -/
def paramWordOf (minLen : Nat) : Word := (BitVec.ofNat 16 minLen).setWidth 32 <<< 16 ||| BitVec.ofNat 32 Config.bufCap

/-- PARAM (R31). -/
def paramWord : Word := paramWordOf Config.minLen

/-- The register at an offset as it is read, reserved bits 0 (R44). CMD and the offsets that are no register are access
errors (R46), so their value is never asked for. -/
def State.regWord (s : State) (a : Offset) : Word :=
  if a = Offset.status then s.statusWord
  else if a = Offset.ctrl then flagBit s.ie 0
  else if a = Offset.crc then s.crc.setWidth 32
  else if a = Offset.sum then s.sum.setWidth 32
  else if a = Offset.len then s.len.setWidth 32
  else if a = Offset.serial then s.serial
  else if a = Offset.view0 then s.view.word0
  else if a = Offset.view1 then s.view.declen.setWidth 32
  else if a = Offset.respSn then s.view.respSn
  else if a = Offset.respTot then s.view.respTot
  else if a = Offset.respDay then s.view.respDay
  else if a = Offset.param then paramWord
  else 0

/-- `MemRead(addr, n)` (R44, R47): an access error sets AERR and returns 0; a legal read changes nothing in the block. -/
def State.busRead (a : Offset) (z : Size) (s : State) : State :=
  if accessError a z false then { s.setAerr with rdata := some 0 }
  else if inFbWindow a then
    { s.noteReads (fbIndex a) z.bytes with rdata := some (leWord (s.fbBytes (fbIndex a) z.bytes)) }
  else { s with rdata := some (s.regWord a) }

/-- A write that the block takes only while idle, and otherwise refuses as an overrun (R45, R99). -/
def State.unlessBusy (s s' : State) : State := if s.status.busy then s.setOvr else s'

/-- A legal write to a register (R45). The offsets that are no writable register are access errors (R46). -/
def State.regWrite (a : Offset) (v : Word) (s : State) : State :=
  if a = Offset.cmd then s.unlessBusy (s.latch v)
  else if a = Offset.status then s.clearStatus v
  else if a = Offset.ctrl then { s with ie := v.getLsbD 0 }
  else if a = Offset.len then s.unlessBusy { s with len := v.setWidth 16 }
  else if a = Offset.serial then s.unlessBusy { s with serial := v }
  else s

/-- `MemWrite(addr, n, v)` (R45, R47); the access error is checked before BUSY (R46). -/
def State.busWrite (a : Offset) (z : Size) (v : Word) (s : State) : State :=
  if accessError a z true then { s.setAerr with rdata := none }
  else if inFbWindow a then
    { s.unlessBusy (s.storeFb (fbIndex a) (wordBytes v z.bytes)) with rdata := none }
  else { s.regWrite a v with rdata := none }

/-- The offset at which a system address reaches the block, if it lies in `BASE .. BASE + 0xFFF` (R9, R39, D9; log entry
10). -/
def windowOffset (base addr : Nat) : Option Offset :=
  if base ≤ addr ∧ addr < base + 4096 then some (BitVec.ofNat 12 (addr - base)) else none

end Sys2Proof.Machine
end

