-- ==== Sys2Proof/Machine/HostSide.lean ====
section
/-! DEFINITION. The host's steps (spec/00_scope.md R14), and the host operations and pseudo-instructions of
spec/30_encoding.md R67. -/

namespace Sys2Proof.Machine

/-- What the host's next action does, the action itself already taken off its list. WAIT polls STATUS once and stays
listed while BUSY reads 1 (R67; log entry 3). -/
def State.hostAct (op : HostOp) (s : State) : State :=
  match op with
  | .read a z => s.busRead a z
  | .write a z v => s.busWrite a z v
  | .wait =>
    if s.status.busy then { s.busRead Offset.status .word with hostOps := .wait :: s.hostOps }
    else s.busRead Offset.status .word

/-- One host step (R14). A host with nothing left to do leaves the block as it is (R112, R126). -/
def State.hostStep (s : State) : State :=
  match s.hostOps with
  | [] => s
  | op :: rest => State.hostAct op { s with hostOps := rest }

/-- `W32 a, v` (R67). -/
def HostOp.w32 (a : Offset) (v : Word) : HostOp := .write a .word v
/-- `W16 a, v` (R67). -/
def HostOp.w16 (a : Offset) (v : Word) : HostOp := .write a .half v
/-- `W8 a, v` (R67). -/
def HostOp.w8 (a : Offset) (v : Word) : HostOp := .write a .byte v
/-- `R32 a` (R67). -/
def HostOp.r32 (a : Offset) : HostOp := .read a .word
/-- `R16 a` (R67). -/
def HostOp.r16 (a : Offset) : HostOp := .read a .half
/-- `R8 a` (R67). -/
def HostOp.r8 (a : Offset) : HostOp := .read a .byte

/-- `ISSUE <cmd>` (R67). -/
def HostOp.issue (i : Instr) : HostOp := HostOp.w32 Offset.cmd (encode i)

/-- `DO <cmd>` (R67). -/
def HostOp.perform (i : Instr) : List HostOp := [HostOp.issue i, .wait]

/-- `CRC_INIT` (R67). -/
def crcInit : Instr := .crcSeed 0xFFFF

/-- `SUM_CLEAR` (R67). -/
def sumClear : Instr := .sumSeed 0x00

/-- `FBW i, b0 b1 ... bk` (R67). -/
def HostOp.fbw : Nat → List Byte → List HostOp
  | _, [] => []
  | i, b :: bs => HostOp.w8 (Offset.fb i) (b.setWidth 32) :: HostOp.fbw (i + 1) bs

end Sys2Proof.Machine
end

