-- ==== Sys2Proof/Machine/Engine.lean ====
section
/-! DEFINITION. The engine's step (spec/30_encoding.md R58, R64), whose turn it is (spec/00_scope.md R14), and the
latching of a word for the host's questions. -/

namespace Sys2Proof.Machine

/-- The engine step: it decodes PENDING and performs the command; a word that is no command is an IllegalCommand (R58,
R62 to R64). -/
def engineStep (s : State) : Host.Outcome State Fault Refusal :=
  match s.pending with
  | none => .fault .busyWithoutCommand
  | some w =>
    match decode w with
    | .ok i => exec i s
    | .error _ => .next s.illegal

/-- The engine's turn: its step is enabled exactly when BUSY = 1 (R14); a turn that is not enabled passes (log entry 2). -/
def engineTurn (s : State) : Host.Outcome State Fault Refusal :=
  if s.status.busy then engineStep s else .next s

/-- One turn of the scheduler's list (R14, R113, R115). -/
def takeTurn (t : Turn) (s : State) : Host.Outcome State Fault Refusal :=
  match t with
  | .host => .next s.hostStep
  | .engine => engineTurn s
  | .rst => .next s.resetEvent
  | .powerOn => .next s.powerOnEvent

/-- Who moves once the scheduler's list has run out: the engine while a command is latched, else the host (log entry 1;
this is what makes every latency finite, R10, R121). -/
def defaultTurn (s : State) : Turn := if s.status.busy then .engine else .host

/-- One step of the machine: the next turn of the list, or the default one. -/
def machineStep (s : State) : Host.Outcome State Fault Refusal :=
  match s.turns with
  | [] => takeTurn (defaultTurn s) s
  | t :: rest => takeTurn t { s with turns := rest }

/-- The state after an accepted CMD write of a table word, with the engine next to move (log entry 13). A word of more
than 32 bits cannot be written to CMD (R65), so it changes nothing. -/
def State.latchTableWord (s : State) (nbits w : Nat) : State :=
  match tableWord nbits w with
  | none => s
  | some v => { s.latch v with turns := .engine :: s.turns }

end Sys2Proof.Machine
end

