-- ==== Sys2Proof/Machine/Step.lean ====
section
/-! DEFINITION. The machine's step, and how a word is placed where the step takes its next command from. -/

namespace Sys2Proof.Machine

/-- One step: one host access, one engine step, or one reset (spec/00_scope.md R14). -/
def step (s : State) : Host.Outcome State Fault Refusal := machineStep s

/-- `s` with a command word latched in PENDING and the engine next to move: CRCFP fetches nothing (R55, R116), a command
reaches it by the host's CMD write (R58; log entry 13). -/
def State.withFetchWord (s : State) (nbits w : Nat) : State := s.latchTableWord nbits w

end Sys2Proof.Machine
end

