-- ==== Sys2Proof/Machine/Assembler.lean ====
section
/-! DEFINITION. The assembler (spec/30_encoding.md R66): one command a line, the mnemonic, then its operands separated by
commas; numbers decimal, or hexadecimal with `0x`. What R66 leaves to the reader of its text (spaces, the `;` comment, the
case of hexadecimal digits) is log entry 17. -/

namespace Sys2Proof

/-- The eight mnemonics (R60, R66). -/
def Opcode.mnemonic : Opcode → List Char
  | .crcSeed => ['C', 'R', 'C', '_', 'S', 'E', 'E', 'D']
  | .crcByte => ['C', 'R', 'C', '_', 'B', 'Y', 'T', 'E']
  | .crcRange => ['C', 'R', 'C', '_', 'R', 'A', 'N', 'G', 'E']
  | .sumSeed => ['S', 'U', 'M', '_', 'S', 'E', 'E', 'D']
  | .sumByte => ['S', 'U', 'M', '_', 'B', 'Y', 'T', 'E']
  | .sumRange => ['S', 'U', 'M', '_', 'R', 'A', 'N', 'G', 'E']
  | .build => ['B', 'U', 'I', 'L', 'D']
  | .parse => ['P', 'A', 'R', 'S', 'E']

/-- The opcodes in the order of R60. -/
def Opcode.all : List Opcode := [.crcSeed, .crcByte, .crcRange, .sumSeed, .sumByte, .sumRange, .build, .parse]

/-- The opcode a mnemonic names (R66). -/
def Opcode.ofMnemonic (m : List Char) : Option Opcode := Opcode.all.find? fun op => op.mnemonic == m

/-- The command of an opcode and its operands as written, refused when their number is wrong or one lies outside its
field (R66). `start + count > 512` is accepted, because the fields fit (R66). -/
def Opcode.assemble (op : Opcode) (operands : List Nat) : Option Instr :=
  match op, operands with
  | .crcSeed, [n] => if n ≤ 0xFFFF then some (.crcSeed (BitVec.ofNat 16 n)) else none
  | .crcByte, [n] => if n ≤ 0xFF then some (.crcByte (BitVec.ofNat 8 n)) else none
  | .crcRange, [a, n] => if a ≤ 4095 ∧ n ≤ 4095 then some (.crcRange a n) else none
  | .sumSeed, [n] => if n ≤ 0xFF then some (.sumSeed (BitVec.ofNat 8 n)) else none
  | .sumByte, [n] => if n ≤ 0xFF then some (.sumByte (BitVec.ofNat 8 n)) else none
  | .sumRange, [a, n] => if a ≤ 4095 ∧ n ≤ 4095 then some (.sumRange a n) else none
  | .build, [] => some .build
  | .parse, [] => some .parse
  | _, _ => none

/-- The value of one digit, up to base 16. -/
def digitValue (c : Char) : Option Nat :=
  let n := c.toNat
  if 48 ≤ n ∧ n ≤ 57 then some (n - 48)
  else if 65 ≤ n ∧ n ≤ 70 then some (n - 55)
  else if 97 ≤ n ∧ n ≤ 102 then some (n - 87)
  else none

/-- Digits of a base read from the left onto `acc`. -/
def readDigits (base : Nat) : Nat → List Char → Option Nat
  | acc, [] => some acc
  | acc, c :: cs =>
    match digitValue c with
    | some d => if d < base then readDigits base (acc * base + d) cs else none
    | none => none

/-- A number: decimal, or hexadecimal with `0x` (R66). -/
def readNumber : List Char → Option Nat
  | [] => none
  | '0' :: 'x' :: [] => none
  | '0' :: 'x' :: cs => readDigits 16 0 cs
  | cs => readDigits 10 0 cs

/-- A blank. -/
def isBlank (c : Char) : Bool := c == ' ' || c == '\t'

/-- A text without the blanks at its two ends. -/
def trimBlanks (cs : List Char) : List Char := ((cs.dropWhile isBlank).reverse.dropWhile isBlank).reverse

/-- The texts between commas; `acc` is the piece read so far, last character first. -/
def splitAtCommas : List Char → List Char → List (List Char)
  | acc, [] => [acc.reverse]
  | acc, c :: cs => if c == ',' then acc.reverse :: splitAtCommas [] cs else splitAtCommas (c :: acc) cs

/-- The operands of a line: none where nothing but blanks is left, else the trimmed texts between commas. -/
def splitOperands (cs : List Char) : List (List Char) :=
  if cs.all isBlank then [] else (splitAtCommas [] cs).map trimBlanks

/-- One line of assembler text as a command; none where the assembler refuses it (R66). -/
def assembleLine (line : List Char) : Option Instr :=
  let text := (line.takeWhile fun c => !(c == ';')).dropWhile isBlank
  match Opcode.ofMnemonic (text.takeWhile fun c => !isBlank c) with
  | none => none
  | some op =>
    match (splitOperands (text.dropWhile fun c => !isBlank c)).mapM readNumber with
    | none => none
    | some operands => op.assemble operands

/-- The assembled word of a line: `op << 24 | fields` (R66). -/
def assembleWord (line : List Char) : Option Word := (assembleLine line).map encode

end Sys2Proof
end

