-- ==== Sys2Proof/Safety.lean ====
section
/-! DEFINITION. The terms the statements use: the invariant of the machine, what a command computes from and to, and the
parts of the state that belong to the host and the scheduler. -/

namespace Sys2Proof.Safety

open Sys2Proof.Machine

/-- What holds of every state a run reaches. -/
structure Inv (s : State) : Prop where
  /-- FB lists rising indexes inside 0..511 (spec/10_state.md R37). -/
  fbCanonical : s.fb.wf = true
  /-- PENDING is empty exactly when BUSY = 0 (R18). -/
  pendingIffBusy : s.pending.isSome = s.status.busy
  /-- DONE = 1 shows that the latest accepted command has finished (spec/70_reset_and_hazards.md R122). -/
  doneMeansIdle : s.status.done = true → s.status.busy = false
  /-- Without a valid frame every view register is zero, so that a stale view never passes for one (R91, R123). -/
  noStaleView : s.status.valid = false → s.view = View.zero

/-- The fields no command writes, whatever it is: the control bits the host owns, SERIAL, and the model's own fields but
for the record of unwritten reads. -/
structure SameBystanders (s t : State) : Prop where
  ie : t.ie = s.ie
  ovr : t.status.ovr = s.status.ovr
  aerr : t.status.aerr = s.status.aerr
  serial : t.serial = s.serial
  powerOns : t.powerOns = s.powerOns
  hostOps : t.hostOps = s.hostOps
  turns : t.turns = s.turns
  rdata : t.rdata = s.rdata

/-- PARSE, run from `s`, completes with this outcome: one row of the table of spec/43_frame_parse.md R83, with everything
PARSE never writes as it was. (Only the model's record of unwritten reads is left open here.) -/
def parseEndsWith (s : State) (code : ResultCode) (valid : Bool) (view : View) (sum : Byte) (crc : Half) : Prop :=
  ∃ t, exec .parse s = .next t ∧
    t = { s with
      pending := none
      status :=
        { busy := false, done := true, valid := valid, ovr := s.status.ovr, aerr := s.status.aerr, result := code }
      view := view
      sum := sum
      crc := crc
      unwrittenRead := t.unwrittenRead }

/-- The state of an engine step that only called `finish(code)` (spec/60_exceptions.md R98). -/
def onlyFinished (code : ResultCode) (s : State) : State :=
  { s with
    pending := none
    status :=
      { busy := false, done := true, valid := s.status.valid, ovr := s.status.ovr, aerr := s.status.aerr,
        result := code } }

/-- The two states agree on what a command computes from and computes: PENDING, CRC, SUM, LEN, SERIAL, the view, VALID,
RESULT and FB (spec/20_memory.md R52, R55). OVR, AERR, DONE and IE may differ. -/
def sameDatapath (s t : State) : Prop :=
  s.pending = t.pending ∧ s.crc = t.crc ∧ s.sum = t.sum ∧ s.len = t.len ∧ s.serial = t.serial ∧ s.view = t.view ∧
    s.status.valid = t.status.valid ∧ s.status.result = t.status.result ∧ s.fb = t.fb ∧ s.powerOns = t.powerOns

/-- It is the engine's turn: it is next on the scheduler's list, or the list has run out, and a command is latched. R14
(spec/00_scope.md) lets either agent go next; the list and its default are the model's choice, log entry 1. -/
def engineNext (s : State) : Prop := (s.turns.head? = some .engine ∨ s.turns = []) ∧ s.status.busy = true

/-- It is the host's turn: it is next on the scheduler's list, or the list has run out with nothing latched
(log entry 1). -/
def hostNext (s : State) : Prop := s.turns.head? = some .host ∨ (s.turns = [] ∧ s.status.busy = false)

/-- The state with its next turn taken off the scheduler's list. -/
def afterTurn (s : State) : State := { s with turns := s.turns.tail }

end Sys2Proof.Safety
end

