-- ==== Sys2Proof/Certificates/Slice0/Obligations.lean ====
section
/-! DEFINITION. The statements about CRCFP. Each docstring names the rule of spec/ it formalises; OBLIGATIONS.json says which
of them state a rule whole. -/

open Sys2Proof Sys2Proof.Machine Sys2Proof.Safety

/-! Encoding. -/

/-- Words written out from spec/30_encoding.md R59 and R60 decode to the commands they stand for, one for each opcode. -/
def Obligations.SampleWordsDecode : Prop :=
  decode 0x0100FFFF = .ok (.crcSeed 0xFFFF) ∧ decode 0x020000AB = .ok (.crcByte 0xAB) ∧
    decode 0x0301A008 = .ok (.crcRange 26 8) ∧ decode 0x04000080 = .ok (.sumSeed 0x80) ∧
    decode 0x05000034 = .ok (.sumByte 0x34) ∧ decode 0x061FF002 = .ok (.sumRange 511 2) ∧
    decode 0x07000000 = .ok .build ∧ decode 0x08000000 = .ok .parse

/-- Decoding the word of a well-formed command gives that command back, for all eight commands and every operand their
fields admit. -/
def Obligations.DecodeOfEncode : Prop := ∀ i : Instr, i.wellFormed = true → decode (encode i) = .ok i

/-- A word that decodes is the word of what it decodes to, which is well formed: no two words are one command, and no bit is
ignored (R59, R65). -/
def Obligations.EncodeOfDecode : Prop :=
  ∀ (w : Word) (i : Instr), decode w = .ok i → i.wellFormed = true ∧ encode i = w

/-- R60, the opcode map: a word is the command of a row exactly when `(w & mask) = match`; a word whose opcode is defined
but which fails its row's mask, and a word of a reserved opcode, are IllegalCommands. -/
def Obligations.OpcodeMapByMaskAndMatch : Prop :=
  ∀ w : Word,
    (w &&& 0xFFFF0000 = 0x01000000 ↔ ∃ imm16, decode w = .ok (.crcSeed imm16)) ∧
    (w &&& 0xFFFFFF00 = 0x02000000 ↔ ∃ imm8, decode w = .ok (.crcByte imm8)) ∧
    (w &&& 0xFF000000 = 0x03000000 ↔ ∃ start count, decode w = .ok (.crcRange start count)) ∧
    (w &&& 0xFFFFFF00 = 0x04000000 ↔ ∃ imm8, decode w = .ok (.sumSeed imm8)) ∧
    (w &&& 0xFFFFFF00 = 0x05000000 ↔ ∃ imm8, decode w = .ok (.sumByte imm8)) ∧
    (w &&& 0xFF000000 = 0x06000000 ↔ ∃ start count, decode w = .ok (.sumRange start count)) ∧
    (w &&& 0xFFFFFFFF = 0x07000000 ↔ decode w = .ok .build) ∧
    (w &&& 0xFFFFFFFF = 0x08000000 ↔ decode w = .ok .parse) ∧
    (w.toNat / 2 ^ 24 = 0 ∨ 9 ≤ w.toNat / 2 ^ 24 ↔ decode w = .error .reservedOpcode) ∧
    (∀ (e : DecodeError) (s : State), s.pending = some w → decode w = .error e →
      engineStep s = .next (onlyFinished .illegalCommand s))

/-- R59 and R61: which bits of a word each operand is, as unsigned numbers. -/
def Obligations.OperandsAreTheirBitRanges : Prop :=
  ∀ w : Word,
    (∀ imm16, decode w = .ok (.crcSeed imm16) → imm16.toNat = w.toNat % 2 ^ 16) ∧
    (∀ imm8, decode w = .ok (.crcByte imm8) ∨ decode w = .ok (.sumSeed imm8) ∨ decode w = .ok (.sumByte imm8) →
      imm8.toNat = w.toNat % 2 ^ 8) ∧
    (∀ start count, decode w = .ok (.crcRange start count) ∨ decode w = .ok (.sumRange start count) →
      start = w.toNat / 2 ^ 12 % 2 ^ 12 ∧ count = w.toNat % 2 ^ 12)

/-- R62: a defined opcode with a reserved bit set finishes IllegalCommand and changes nothing else. -/
def Obligations.ReservedBitsFinishIllegal : Prop :=
  ∀ (s : State) (w : Word), s.pending = some w →
    (w.extractLsb' 24 8 = 0x01 ∧ w.extractLsb' 16 8 ≠ 0 ∨
      (w.extractLsb' 24 8 = 0x02 ∨ w.extractLsb' 24 8 = 0x04 ∨ w.extractLsb' 24 8 = 0x05) ∧ w.extractLsb' 8 16 ≠ 0 ∨
      (w.extractLsb' 24 8 = 0x07 ∨ w.extractLsb' 24 8 = 0x08) ∧ w.extractLsb' 0 24 ≠ 0) →
    engineStep s = .next (onlyFinished .illegalCommand s)

/-- R63: a reserved opcode finishes IllegalCommand and changes nothing else. -/
def Obligations.ReservedOpcodesFinishIllegal : Prop :=
  ∀ (s : State) (w : Word), s.pending = some w → (w.extractLsb' 24 8 = 0x00 ∨ 0x09 ≤ (w.extractLsb' 24 8).toNat) →
    engineStep s = .next (onlyFinished .illegalCommand s)

/-- R64: the engine step's checks in order: the opcode, the reserved bits, the range; then the command's own rule. -/
def Obligations.EngineFollowsDecodeOrder : Prop :=
  ∀ (s : State) (w : Word), s.pending = some w →
    ((∀ op : Opcode, w.extractLsb' 24 8 ≠ op.code) → engineStep s = .next (onlyFinished .illegalCommand s)) ∧
    (∀ op : Opcode, w.extractLsb' 24 8 = op.code → w &&& op.mask ≠ op.pattern →
      engineStep s = .next (onlyFinished .illegalCommand s)) ∧
    (∀ op : Opcode, w.extractLsb' 24 8 = op.code → w &&& op.mask = op.pattern →
      (op = .crcRange ∨ op = .sumRange) → 512 < (w.extractLsb' 12 12).toNat + (w.extractLsb' 0 12).toNat →
      engineStep s = .next (onlyFinished .rangeError s)) ∧
    (∀ op : Opcode, w.extractLsb' 24 8 = op.code → w &&& op.mask = op.pattern →
      ∃ i, decode w = .ok i ∧ i.opcode = op ∧ engineStep s = exec i s)

/-- R66: the assembler takes an operand that fits its field and refuses one that does not; a RNG command with
`start + count > 512` is accepted. A command it gives is the one of its mnemonic, well formed, and every well-formed command
can be written. -/
def Obligations.AssemblerChecksOperandFields : Prop :=
  (∀ n, Opcode.crcSeed.assemble [n] = if n ≤ 0xFFFF then some (.crcSeed (BitVec.ofNat 16 n)) else none) ∧
    (∀ n, Opcode.crcByte.assemble [n] = if n ≤ 0xFF then some (.crcByte (BitVec.ofNat 8 n)) else none) ∧
    (∀ n, Opcode.sumSeed.assemble [n] = if n ≤ 0xFF then some (.sumSeed (BitVec.ofNat 8 n)) else none) ∧
    (∀ n, Opcode.sumByte.assemble [n] = if n ≤ 0xFF then some (.sumByte (BitVec.ofNat 8 n)) else none) ∧
    (∀ (op : Opcode) (a n : Nat), (op = .crcRange ∨ op = .sumRange) →
      ((op.assemble [a, n]).isSome ↔ a ≤ 4095 ∧ n ≤ 4095)) ∧
    (∀ (op : Opcode) (operands : List Nat) (i : Instr), op.assemble operands = some i →
      i.opcode = op ∧ i.wellFormed = true ∧ decode (encode i) = .ok i) ∧
    (∀ i : Instr, i.wellFormed = true → ∃ operands, i.opcode.assemble operands = some i)

/-! The step, and who moves. -/

/-- The engine step of R58 and R64, taken when the engine is next by the scheduler of log entry 1 (the model's choice: R14
lets either agent go next; here the engine is next when the list says so, and also when the list is empty and BUSY = 1): when
PENDING decodes to a command, the step is that command's meaning, run in the state with the turn taken off the list. -/
def Obligations.StepRunsDecodedCommand : Prop :=
  ∀ (s : State) (w : Word) (i : Instr), engineNext s → s.pending = some w → decode w = .ok i →
    step s = exec i (afterTurn s)

/-- R14, with the scheduler and the host's list of log entries 1, 2, 3 and 7 (the model's choice): a step is the host's next
access, the engine step when one is enabled, a turn that passes, a reset, or a power-on. -/
def Obligations.TurnDecidesWhoSteps : Prop :=
  (∀ s, engineNext s → step s = engineStep (afterTurn s)) ∧
    (∀ s, s.turns.head? = some .engine → s.status.busy = false → step s = .next (afterTurn s)) ∧
    (∀ s a z rest, hostNext s → s.hostOps = .read a z :: rest →
      step s = .next (State.busRead a z { afterTurn s with hostOps := rest })) ∧
    (∀ s a z v rest, hostNext s → s.hostOps = .write a z v :: rest →
      step s = .next (State.busWrite a z v { afterTurn s with hostOps := rest })) ∧
    (∀ s, hostNext s → s.hostOps = [] → step s = .next (afterTurn s)) ∧
    (∀ s, s.turns.head? = some .rst → step s = .next (afterTurn s).resetEvent) ∧
    (∀ s, s.turns.head? = some .powerOn → step s = .next (afterTurn s).powerOnEvent)

/-- R112 and R126, with the scheduler and the host's list of log entries 1 and 3 (the model's choice): with nothing latched,
no access left and nothing scheduled, the block keeps all its state. -/
def Obligations.IdleMachineKeepsState : Prop :=
  ∀ s : State, s.turns = [] → s.hostOps = [] → s.status.busy = false → step s = .next s

/-- R67, with the scheduler and the host's list of log entries 1 and 3 (the model's choice): WAIT reads STATUS, stays while
BUSY reads 1, and is over when BUSY reads 0; it changes nothing in the block. -/
def Obligations.WaitPollsUntilIdle : Prop :=
  ∀ (s : State) (rest : List HostOp), hostNext s → s.hostOps = .wait :: rest →
    step s = .next { afterTurn s with
      hostOps := if s.status.busy then .wait :: rest else rest
      rdata := some s.statusWord }

/-- R58: an accepted CMD write latches the word, sets BUSY, clears DONE, and changes nothing else. -/
def Obligations.CmdWriteLatchesCommand : Prop :=
  ∀ (s : State) (w : Word), s.status.busy = false →
    s.busWrite 0x000 .word w =
      { s with pending := some w, status := { s.status with busy := true, done := false }, rdata := none }

/-- R121's finite latency under the scheduler of log entry 1 (the model's choice): from every state of the invariant with
BUSY = 1, BUSY = 0 after at most one step more than the scheduler's list is long. Nothing is said of how: an engine step ends
it, and so does a listed reset or power-on, which discards the command (R114). -/
def Obligations.BusyEndsWithinTurnsPlusOne : Prop :=
  ∀ s : State, Inv s → s.status.busy = true →
    ∃ k t, k ≤ s.turns.length + 1 ∧ Host.Core.run Sys2Proof.core k s = .next t ∧ t.status.busy = false

/-! The CRC-16 generator. -/

/-- R68: `crc_step` XORs the byte into the low bits and shifts eight times, XORing 0xA001 in when the bit shifted out is 1;
with the rule's trace of `crc_step(0xFFFF, 0x01)`. -/
def Obligations.CrcStepShiftsEightTimes : Prop :=
  (∀ (c : Half) (b : Byte),
    crcStep c b =
      (fun x : Half => if x.toNat % 2 = 1 then (x >>> 1) ^^^ 0xA001 else x >>> 1)^[8] (c ^^^ b.setWidth 16)) ∧
    (0xFFFF ^^^ 0x0001 : Half) = 0xFFFE ∧
    ((List.range 8).map fun k => crcShifts (k + 1) 0xFFFE) =
      [0x7FFF, 0x9FFE, 0x4FFF, 0x87FE, 0x43FF, 0x81FE, 0x40FF, 0x807E] ∧
    crcStep 0xFFFF 0x01 = 0x807E

/-- R69 and R71: `crc16` folds `crc_step` from the left, chains across calls through its seed, is stored low byte first, and
gives the published check value of CRC-16/MODBUS for "123456789". -/
def Obligations.CrcFoldsAndChains : Prop :=
  (∀ seed, crc16 seed [] = seed) ∧
    (∀ seed d b, crc16 seed (d ++ [b]) = crcStep (crc16 seed d) b) ∧
    (∀ seed a b, crc16 seed (a ++ b) = crc16 (crc16 seed a) b) ∧
    (∀ c : Half, crcBytes c = [c.extractLsb' 0 8, c.extractLsb' 8 8]) ∧
    crc16 0xFFFF [0x31, 0x32, 0x33, 0x34, 0x35, 0x36, 0x37, 0x38, 0x39] = 0x4B37

/-- R70, the check-value invariant: a byte string followed by its own CRC, low byte first, has CRC 0; and the rule's
example of the other byte order, which has not. -/
def Obligations.CrcOfDataAndItsCrcIsZero : Prop :=
  (∀ d : List Byte,
    crc16 0xFFFF (d ++ [(crc16 0xFFFF d).extractLsb' 0 8, (crc16 0xFFFF d).extractLsb' 8 8]) = 0) ∧
    crc16 0xFFFF [0x01, 0x03, 0x00, 0x3B, 0x00, 0x3A] = 0x14B4 ∧
    crc16 0xFFFF [0x01, 0x03, 0x00, 0x3B, 0x00, 0x3A, 0xB4, 0x14] = 0x0000 ∧
    crc16 0xFFFF [0x01, 0x03, 0x00, 0x3B, 0x00, 0x3A, 0x14, 0xB4] = 0x7878

/-- R72, CRC_SEED: completes with CRC = imm16 and nothing else changed but what `finish(0)` writes; as a word, IllegalCommand
with CRC unchanged when `w[23:16]` is not 0; with the rule's seed 0x0000. -/
def Obligations.CrcSeedLoadsCrc : Prop :=
  (∀ (imm16 : Half) (s : State), exec (.crcSeed imm16) s = .next (onlyFinished .ok { s with crc := imm16 })) ∧
    (∀ (s : State) (w : Word), s.pending = some w → w.extractLsb' 24 8 = 0x01 →
      engineStep s = .next (if w.extractLsb' 16 8 = 0 then onlyFinished .ok { s with crc := w.extractLsb' 0 16 }
        else onlyFinished .illegalCommand s)) ∧
    crc16 0x0000 [0x00] = 0x0000

/-- R73, CRC_BYTE: completes with CRC = crc_step(CRC, imm8); as a word, IllegalCommand with CRC unchanged when `w[23:8]` is
not 0; with the rule's corner cases. -/
def Obligations.CrcByteFoldsOneByte : Prop :=
  (∀ (imm8 : Byte) (s : State),
    exec (.crcByte imm8) s = .next (onlyFinished .ok { s with crc := crcStep s.crc imm8 })) ∧
    (∀ (s : State) (w : Word), s.pending = some w → w.extractLsb' 24 8 = 0x02 →
      engineStep s = .next (if w.extractLsb' 8 16 = 0 then
          onlyFinished .ok { s with crc := crcStep s.crc (w.extractLsb' 0 8) }
        else onlyFinished .illegalCommand s)) ∧
    crcStep 0xFFFF 0x00 = 0x40BF ∧ crcStep 0xFFFF 0xFF = 0x00FF ∧ crcStep 0x0000 0x00 = 0x0000 ∧
    crcStep 0xFFFF 0x01 = 0x807E

/-- R74, CRC_RANGE: completes for every start and count. In range, CRC is the CRC of FB[start .. start+count-1] from the
running value; out of range, RangeError and nothing else changed. There is no IllegalCommand case; with the
rule's example after BUILD. (The record of unwritten reads is the model's own, log entry 5.) -/
def Obligations.CrcRangeFoldsFrameBytes : Prop :=
  (∀ (start count : Nat) (s : State), start + count ≤ 512 →
    exec (.crcRange start count) s = .next (onlyFinished .ok { s with
      crc := crc16 s.crc ((List.range' start count).map s.fbByte)
      unwrittenRead := s.unwrittenRead || (List.range' start count).any fun i => !s.fbWritten i })) ∧
    (∀ (start count : Nat) (s : State), 512 < start + count →
      exec (.crcRange start count) s = .next (onlyFinished .rangeError s)) ∧
    (∀ (s : State) (w : Word), s.pending = some w → w.extractLsb' 24 8 = 0x03 →
      engineStep s = exec (.crcRange (w.extractLsb' 12 12).toNat (w.extractLsb' 0 12).toNat) s) ∧
    (∀ s : State, ∃ t u v, exec .build s = .next t ∧ exec (.crcSeed 0xFFFF) t = .next u ∧
      exec (.crcRange 26 8) u = .next v ∧ v.crc = 0x0000)

/-! The byte sum. -/

/-- R75: `sum8` is the sum modulo 256, splits over concatenation, and does not depend on the order of the bytes. -/
def Obligations.ByteSumIsModulo256 : Prop :=
  (∀ (seed : Byte) (d : List Byte), (sum8 seed d).toNat = (seed.toNat + (d.map fun b => b.toNat).sum) % 256) ∧
    (∀ seed a b, sum8 seed (a ++ b) = sum8 (sum8 seed a) b) ∧
    (∀ (seed : Byte) (d d' : List Byte), d.Perm d' → sum8 seed d = sum8 seed d')

/-- R76, SUM_SEED: completes with SUM = imm8; as a word, IllegalCommand with SUM unchanged when `w[23:8]` is not 0. -/
def Obligations.SumSeedLoadsSum : Prop :=
  (∀ (imm8 : Byte) (s : State), exec (.sumSeed imm8) s = .next (onlyFinished .ok { s with sum := imm8 })) ∧
    (∀ (s : State) (w : Word), s.pending = some w → w.extractLsb' 24 8 = 0x04 →
      engineStep s = .next (if w.extractLsb' 8 16 = 0 then onlyFinished .ok { s with sum := w.extractLsb' 0 8 }
        else onlyFinished .illegalCommand s))

/-- R77, SUM_BYTE: completes with SUM = (SUM + imm8) mod 256; as a word, IllegalCommand with SUM unchanged when `w[23:8]` is
not 0. -/
def Obligations.SumByteAddsModulo256 : Prop :=
  (∀ (imm8 : Byte) (s : State),
    exec (.sumByte imm8) s =
      .next (onlyFinished .ok { s with sum := BitVec.ofNat 8 ((s.sum.toNat + imm8.toNat) % 256) })) ∧
    (∀ (s : State) (w : Word), s.pending = some w → w.extractLsb' 24 8 = 0x05 →
      engineStep s = .next (if w.extractLsb' 8 16 = 0 then
          onlyFinished .ok { s with sum := BitVec.ofNat 8 ((s.sum.toNat + w.toNat % 256) % 256) }
        else onlyFinished .illegalCommand s))

/-- R78, SUM_RANGE: completes for every start and count. In range, SUM is the sum of FB[start .. start+count-1] from the
running value; out of range, RangeError and nothing else changed; with the rule's examples, one of them after BUILD with
the template T0. (The record of unwritten reads is the model's own, log entry 5.) -/
def Obligations.SumRangeAddsFrameBytes : Prop :=
  (∀ (start count : Nat) (s : State), start + count ≤ 512 →
    exec (.sumRange start count) s = .next (onlyFinished .ok { s with
      sum := sum8 s.sum ((List.range' start count).map s.fbByte)
      unwrittenRead := s.unwrittenRead || (List.range' start count).any fun i => !s.fbWritten i })) ∧
    (∀ (start count : Nat) (s : State), 512 < start + count →
      exec (.sumRange start count) s = .next (onlyFinished .rangeError s)) ∧
    (∀ (s : State) (w : Word), s.pending = some w → w.extractLsb' 24 8 = 0x06 →
      engineStep s = exec (.sumRange (w.extractLsb' 12 12).toNat (w.extractLsb' 0 12).toNat) s) ∧
    sum8 0x00 (List.replicate 16 0x10) = 0x00 ∧
    (∀ s : State, s.serial = 0x12345678 → ∃ u v, exec (.sumSeed 0x00) (s.buildWith fun _ => 0) = .next u ∧
      exec (.sumRange 1 33) u = .next v ∧ v.sum = 0x55 ∧ v.fbByte 34 = 0x55)

/-! The request frame builder. -/

/-- R80, BUILD: completes from every state; FB[0..35] reads as the rule writes it, FB[36..511], and everything but FB, LEN,
CRC, SUM and what `finish(0)` writes, is as it was; as a word, IllegalCommand with nothing else changed when `w[23:0]` is not
0; with the rule's CRC bytes, and its checksums under the template T0. -/
def Obligations.BuildWritesRequestFrame : Prop :=
  (∀ s : State, ∃ t, exec .build s = .next t ∧
    (∀ i, i < 36 → t.fb.lookup i = some (t.fbByte i)) ∧
    t.fbByte 0 = 0xA5 ∧
    (∀ o, (1 ≤ o ∧ o ≤ 6) ∨ (11 ≤ o ∧ o ≤ 25) → t.fbByte o = Config.template o) ∧
    t.fbByte 7 = s.serial.extractLsb' 0 8 ∧ t.fbByte 8 = s.serial.extractLsb' 8 8 ∧
    t.fbByte 9 = s.serial.extractLsb' 16 8 ∧ t.fbByte 10 = s.serial.extractLsb' 24 8 ∧
    (List.range' 26 6).map t.fbByte = [0x01, 0x03, 0x00, 0x3B, 0x00, 0x3A] ∧
    t.crc = crc16 0xFFFF ((List.range' 26 6).map t.fbByte) ∧
    t.fbByte 32 = t.crc.extractLsb' 0 8 ∧ t.fbByte 33 = t.crc.extractLsb' 8 8 ∧
    t.fbByte 32 = 0xB4 ∧ t.fbByte 33 = 0x14 ∧
    t.sum = sum8 0x00 ((List.range' 1 33).map t.fbByte) ∧ t.fbByte 34 = t.sum ∧
    t.fbByte 35 = 0x15 ∧ t.len = 36 ∧
    (∀ i, 36 ≤ i → t.fb.lookup i = s.fb.lookup i ∧ t.fbByte i = s.fbByte i) ∧
    t = onlyFinished .ok { s with fb := t.fb, len := t.len, crc := t.crc, sum := t.sum }) ∧
    (∀ (s : State) (w : Word), s.pending = some w → w.extractLsb' 24 8 = 0x07 →
      engineStep s = if w.extractLsb' 0 24 = 0 then exec .build s else .next (onlyFinished .illegalCommand s)) ∧
    (∀ s : State, s.serial = 0x00000000 → (s.buildWith fun _ => 0).sum = 0x41) ∧
    (∀ s : State, s.serial = 0xFFFFFFFF → (s.buildWith fun _ => 0).sum = 0x3D)

/-- R81: what every BUILD result satisfies, the request sub-frame's CRC residue among it; and PARSE of it never succeeds:
TruncatedFrame when MIN_LEN > 36, else CrcMismatch, with CRC = 0x0B4F when T[25] = 0. Stated for every template and every
MIN_LEN, of which the two commands' meanings take the configured ones. -/
def Obligations.BuildResultPropertiesAndParse : Prop :=
  (∀ s : State, exec .build s = .next (s.buildWith Config.template) ∧
    exec .parse s = .next (s.parseWith Config.minLen)) ∧
    (∀ (template : Nat → Byte) (minLen : Nat) (s : State),
      let t := s.buildWith template
      let u := t.parseWith minLen
      t.fbByte 0 = 0xA5 ∧ t.fbByte 35 = 0x15 ∧ leWord ((List.range' 7 4).map t.fbByte) = s.serial ∧
        sum8 0 ((List.range' 1 33).map t.fbByte) = t.fbByte 34 ∧
        crc16 0xFFFF ((List.range' 26 8).map t.fbByte) = 0x0000 ∧ t.len = 36 ∧
        (36 < minLen → u.status.result = .truncatedFrame) ∧
        (minLen ≤ 36 → u.status.result = .crcMismatch ∧ (template 25 = 0 → u.crc = 0x0B4F)))

/-! The response frame parser. -/

/-- R83 to R91, PARSE: it completes from every state, reporting the first check that fails, with the SUM, CRC, VALID and view
of that row of R83's table, a LEN above 512 before any FB byte is read; as a word, IllegalCommand with nothing else changed
when `w[23:0]` is not 0. -/
def Obligations.ParseReportsFirstFailingCheck : Prop :=
  (∀ s : State,
    let L := s.len.toNat
    let sum := sum8 0x00 ((List.range' 1 (L - 3)).map s.fbByte)
    let residue := crc16 0xFFFF ((List.range' 25 (5 + (s.fbByte 27).toNat)).map s.fbByte)
    (512 < L → parseEndsWith s .rangeError false View.zero s.sum s.crc ∧
      ∀ t, exec .parse s = .next t → t.unwrittenRead = s.unwrittenRead) ∧
    (L ≤ 512 → L < Config.minLen → parseEndsWith s .truncatedFrame false View.zero s.sum s.crc) ∧
    (L ≤ 512 → Config.minLen ≤ L → s.fbByte 0 ≠ 0xA5 →
      parseEndsWith s .badStartMarker false View.zero s.sum s.crc) ∧
    (L ≤ 512 → Config.minLen ≤ L → s.fbByte 0 = 0xA5 → sum ≠ s.fbByte (L - 2) →
      parseEndsWith s .checksumMismatch false View.zero sum s.crc) ∧
    (L ≤ 512 → Config.minLen ≤ L → s.fbByte 0 = 0xA5 → sum = s.fbByte (L - 2) → residue ≠ 0x0000 →
      parseEndsWith s .crcMismatch false View.zero sum residue) ∧
    (L ≤ 512 → Config.minLen ≤ L → s.fbByte 0 = 0xA5 → sum = s.fbByte (L - 2) → residue = 0x0000 →
      s.fbByte (L - 1) ≠ 0x15 → parseEndsWith s .badEndMarker false View.zero sum 0x0000) ∧
    (L ≤ 512 → Config.minLen ≤ L → s.fbByte 0 = 0xA5 → sum = s.fbByte (L - 2) → residue = 0x0000 →
      s.fbByte (L - 1) = 0x15 →
      parseEndsWith s .ok true
        { unit := s.fbByte 25
          func := s.fbByte 26
          plen := s.fbByte 27
          declen := BitVec.ofNat 16 ((s.fbByte 1).toNat + (s.fbByte 2).toNat * 2 ^ 8)
          respSn := BitVec.ofNat 32 ((s.fbByte 7).toNat + (s.fbByte 8).toNat * 2 ^ 8 +
            (s.fbByte 9).toNat * 2 ^ 16 + (s.fbByte 10).toNat * 2 ^ 24)
          respTot := BitVec.ofNat 32 ((s.fbByte 13).toNat + (s.fbByte 14).toNat * 2 ^ 8 +
            (s.fbByte 15).toNat * 2 ^ 16 + (s.fbByte 16).toNat * 2 ^ 24)
          respDay := BitVec.ofNat 32 ((s.fbByte 17).toNat + (s.fbByte 18).toNat * 2 ^ 8 +
            (s.fbByte 19).toNat * 2 ^ 16 + (s.fbByte 20).toNat * 2 ^ 24) }
        sum 0x0000)) ∧
    (∀ (s : State) (w : Word), s.pending = some w → w.extractLsb' 24 8 = 0x08 →
      engineStep s = if w.extractLsb' 0 24 = 0 then exec .parse s else .next (onlyFinished .illegalCommand s))

/-- R92: PARSE accepts a frame exactly when its size is legal, its markers match and its two integrity checks pass; the
declared length, the unit id, the function code and `LEN = 32 + N` play no part, and the CRC range is not bounded by LEN. -/
def Obligations.ParseAcceptsOnChecksAlone : Prop :=
  ∀ s : State, ∃ t, exec .parse s = .next t ∧
    (t.status.result = .ok ↔
      Config.minLen ≤ s.len.toNat ∧ s.len.toNat ≤ 512 ∧ s.fbByte 0 = 0xA5 ∧ s.fbByte (s.len.toNat - 1) = 0x15 ∧
        sum8 0 ((List.range' 1 (s.len.toNat - 3)).map s.fbByte) = s.fbByte (s.len.toNat - 2) ∧
        crc16 0xFFFF ((List.range' 25 (5 + (s.fbByte 27).toNat)).map s.fbByte) = 0)

/-- R93: change any one byte FB[i], 1 <= i <= L-2, of a frame that PARSE accepts, and PARSE rejects it with
ChecksumMismatch, before the CRC check runs. -/
def Obligations.SingleByteMutationIsCaught : Prop :=
  ∀ (s t : State) (i : Nat) (b : Byte), exec .parse s = .next t → t.status.result = .ok → 1 ≤ i →
    i ≤ s.len.toNat - 2 → b ≠ s.fbByte i →
    ∃ u, exec .parse { s with fb := s.fb.write i b } = .next u ∧ u.status.result = .checksumMismatch ∧ u.crc = s.crc

/-! Flags, results and frames. -/

/-- R98: `finish(code)` writes RESULT, empties PENDING, clears BUSY, sets DONE and nothing else; every command completes, from
every state, in one step that ends so; and so does every engine step. -/
def Obligations.EveryCommandFinishes : Prop :=
  (∀ (code : ResultCode) (s : State), s.finish code = onlyFinished code s) ∧
    (∀ (i : Instr) (s : State), ∃ t, exec i s = .next t ∧ t = onlyFinished t.status.result t) ∧
    (∀ s t : State, engineStep s = .next t → t = onlyFinished t.status.result t)

/-- R96: the numbers of the result codes, as STATUS shows them; codes 8..15 are never produced. -/
def Obligations.ResultCodeNumbers : Prop :=
  ResultCode.ok.code = 0 ∧ ResultCode.truncatedFrame.code = 1 ∧ ResultCode.badStartMarker.code = 2 ∧
    ResultCode.checksumMismatch.code = 3 ∧ ResultCode.crcMismatch.code = 4 ∧ ResultCode.badEndMarker.code = 5 ∧
    ResultCode.illegalCommand.code = 6 ∧ ResultCode.rangeError.code = 7 ∧
    (∀ s : State, (s.statusWord.toNat / 2 ^ 8 % 2 ^ 4) = s.status.result.code.toNat ∧ s.status.result.code.toNat < 8)

/-- R97: the result codes an engine step can finish with, by the opcode of its word. -/
def Obligations.ResultCodesByOpcode : Prop :=
  ∀ (s : State) (w : Word), s.pending = some w → ∃ t, engineStep s = .next t ∧
    ((w.extractLsb' 24 8).toNat ∈ [1, 2, 4, 5, 7] → t.status.result = .ok ∨ t.status.result = .illegalCommand) ∧
    ((w.extractLsb' 24 8).toNat ∈ [3, 6] → t.status.result = .ok ∨ t.status.result = .rangeError) ∧
    ((w.extractLsb' 24 8).toNat = 8 → (t.status.result = .illegalCommand ↔ w.extractLsb' 0 24 ≠ 0)) ∧
    ((w.extractLsb' 24 8).toNat ∉ [1, 2, 3, 4, 5, 6, 7, 8] → t.status.result = .illegalCommand)

/-- The frame of the commands, all eight named by their constructor: IE, OVR, AERR, SERIAL and the host's side are never
written; FB and LEN only by BUILD (R37, R35); the view and VALID only by PARSE (R22); CRC and SUM only by their own commands,
BUILD and PARSE (R32, R33). -/
def Obligations.CommandsLeaveOtherRegisters : Prop :=
  ∀ (i : Instr) (s : State), ∃ t, exec i s = .next t ∧ SameBystanders s t ∧
    (i ≠ .build → t.len = s.len ∧ t.fb = s.fb ∧ ∀ k, t.fbByte k = s.fbByte k) ∧
    (i ≠ .parse → t.view = s.view ∧ t.status.valid = s.status.valid) ∧
    ((∀ imm16, i ≠ .crcSeed imm16) → (∀ imm8, i ≠ .crcByte imm8) → (∀ a n, i ≠ .crcRange a n) → i ≠ .build →
      i ≠ .parse → t.crc = s.crc) ∧
    ((∀ imm8, i ≠ .sumSeed imm8) → (∀ imm8, i ≠ .sumByte imm8) → (∀ a n, i ≠ .sumRange a n) → i ≠ .build →
      i ≠ .parse → t.sum = s.sum)

/-- R20: BUSY is set by an accepted CMD write, cleared by the engine step and by reset, and changed by nothing else. -/
def Obligations.BusyChangesOnlyByIssueEngineReset : Prop :=
  (∀ (s : State) (w : Word), s.status.busy = false → (s.busWrite 0x000 .word w).status.busy = true) ∧
    (∀ (op : HostOp) (s : State), s.status.busy = false → (State.hostAct op s).status.busy = true →
      ∃ w, op = .write 0x000 .word w) ∧
    (∀ (op : HostOp) (s : State), s.status.busy = true → (State.hostAct op s).status.busy = true) ∧
    (∀ s t : State, engineStep s = .next t → t.status.busy = false) ∧ (∀ s : State, s.resetEvent.status.busy = false)

/-- R21: DONE is set by every engine step, whatever its result, and by no access of the host; it is cleared by an accepted CMD
write, by a STATUS write with bit 1 set, and by reset, and by no other access. -/
def Obligations.DoneChangesOnlyByItsEvents : Prop :=
  (∀ s t : State, engineStep s = .next t → t.status.done = true) ∧
    (∀ (op : HostOp) (s : State), s.status.done = false → (State.hostAct op s).status.done = false) ∧
    (∀ (s : State) (w : Word), s.status.busy = false → (s.busWrite 0x000 .word w).status.done = false) ∧
    (∀ (s : State) (w : Word), w.getLsbD 1 = true → (s.busWrite 0x004 .word w).status.done = false) ∧
    (∀ (op : HostOp) (s : State), s.status.done = true → (State.hostAct op s).status.done = false →
      (s.status.busy = false ∧ ∃ w, op = .write 0x000 .word w) ∨ ∃ w, op = .write 0x004 .word w ∧ w.getLsbD 1 = true) ∧
    (∀ s : State, s.resetEvent.status.done = false)

/-- R22: VALID is written by the engine step of a legal PARSE alone, to 1 exactly when the result is OK; reset clears it; an
engine step of any other word, and every access of the host, leaves it and the view registers as they were. -/
def Obligations.ValidWrittenOnlyByLegalParse : Prop :=
  (∀ s t : State, s.pending = some 0x08000000 → engineStep s = .next t →
      (t.status.valid = true ↔ t.status.result = .ok)) ∧
    (∀ s t : State, s.pending ≠ some 0x08000000 → engineStep s = .next t →
      t.status.valid = s.status.valid ∧ t.view = s.view) ∧
    (∀ (op : HostOp) (s : State), (State.hostAct op s).status.valid = s.status.valid ∧
      (State.hostAct op s).view = s.view) ∧
    (∀ s : State, s.resetEvent.status.valid = false)

/-- R24: every access error sets AERR; once set, it is cleared by a STATUS write with bit 4 set and by reset, and by nothing
else. -/
def Obligations.AerrIsSticky : Prop :=
  (∀ (a : Offset) (z : Size) (s : State), accessError a z false = true → (s.busRead a z).status.aerr = true) ∧
    (∀ (a : Offset) (z : Size) (w : Word) (s : State), accessError a z true = true →
      (s.busWrite a z w).status.aerr = true) ∧
    (∀ (s : State) (w : Word), w.getLsbD 4 = true → (s.busWrite 0x004 .word w).status.aerr = false) ∧
    (∀ (op : HostOp) (s : State), s.status.aerr = true → (State.hostAct op s).status.aerr = false →
      ∃ w, op = .write 0x004 .word w ∧ w.getLsbD 4 = true) ∧
    (∀ s t : State, engineStep s = .next t → t.status.aerr = s.status.aerr) ∧
    (∀ s : State, s.resetEvent.status.aerr = false)

/-- R25: every engine step writes RESULT, whatever it was; no access of the host, a CMD write among them, changes it; reset
sets it to 0. -/
def Obligations.ResultWrittenOnlyByEngineStep : Prop :=
  (∀ (s t : State) (code : ResultCode), engineStep s = .next t →
      engineStep { s with status := { s.status with result := code } } = .next t) ∧
    (∀ (op : HostOp) (s : State), (State.hostAct op s).status.result = s.status.result) ∧
    (∀ s : State, s.resetEvent.status.result.code = 0)

/-- R32, R33, R35, R36, whole-machine, with the turns of log entries 1 and 7 (the model's choice): in a step that is no reset,
who writes CRC, SUM, LEN and SERIAL. -/
def Obligations.OperandRegisterWriters : Prop :=
  ∀ s t : State, step s = .next t → s.turns.head? ≠ some .rst → s.turns.head? ≠ some .powerOn →
    (t.crc ≠ s.crc → engineNext s) ∧ (t.sum ≠ s.sum → engineNext s) ∧
    (t.len ≠ s.len →
      (engineNext s ∧ s.pending = some 0x07000000 ∧ t.len = 36) ∨
      (hostNext s ∧ s.status.busy = false ∧ ∃ v rest, s.hostOps = .write 0x014 .word v :: rest ∧
        t.len = v.extractLsb' 0 16)) ∧
    (t.serial ≠ s.serial →
      hostNext s ∧ s.status.busy = false ∧ ∃ rest, s.hostOps = .write 0x018 .word t.serial :: rest)

/-! The bus. -/

/-- R42 and R43: an access to the register region is legal exactly when it is an aligned 32-bit access to one of the thirteen
registers that is no read of CMD and no write of a read-only register; one to the FB window exactly when it is naturally
aligned and of 1, 2 or 4 bytes, and then it lies wholly inside the window. -/
def Obligations.LegalAccesses : Prop :=
  ∀ (a : Offset) (z : Size) (write : Bool),
    (a.toNat ≤ 0x030 →
      (accessError a z write = false ↔
        z = .word ∧ a.toNat % 4 = 0 ∧
        a.toNat ∈ [0x000, 0x004, 0x008, 0x00C, 0x010, 0x014, 0x018, 0x01C, 0x020, 0x024, 0x028, 0x02C, 0x030] ∧
        (write = false → a.toNat ≠ 0x000) ∧
        (write = true → a.toNat ∉ [0x00C, 0x010, 0x01C, 0x020, 0x024, 0x028, 0x02C, 0x030]))) ∧
    (0x200 ≤ a.toNat → a.toNat ≤ 0x3FF →
      (accessError a z write = false ↔
        z = .byte ∨ z = .half ∧ a.toNat % 2 = 0 ∨ z = .word ∧ a.toNat % 4 = 0) ∧
      (accessError a z write = false → a.toNat + z.bytes ≤ 0x400))

/-- R46 (c), and the byte offsets 0x031..0x033 of PARAM, which R46 names in none of its cases (log entry 18, the model's
choice): outside the registers and the FB window every access is an error. -/
def Obligations.OtherOffsetsAreErrors : Prop :=
  ∀ (a : Offset) (z : Size) (write : Bool), (0x031 ≤ a.toNat ∧ a.toNat ≤ 0x1FF) ∨ 0x400 ≤ a.toNat →
    accessError a z write = true

/-- R47: an access error returns 0 on a read, changes nothing on a write, sets AERR and no other state, and does not touch
the interrupt. -/
def Obligations.AccessErrorSetsAerrOnly : Prop :=
  (∀ (a : Offset) (z : Size) (s : State), accessError a z false = true →
    s.busRead a z = { s with status := { s.status with aerr := true }, rdata := some 0x00000000 } ∧
      (s.busRead a z).irq = s.irq) ∧
    (∀ (a : Offset) (z : Size) (v : Word) (s : State), accessError a z true = true →
      s.busWrite a z v = { s with status := { s.status with aerr := true }, rdata := none } ∧
        (s.busWrite a z v).irq = s.irq)

/-- R44: a read that is an access error returns 0 and sets AERR; what every legal read returns, and that it changes no state of
the block. (The port's `rdata` and the record of
unwritten reads are the model's own, log entries 4 and 5.) -/
def Obligations.LegalReadsReturnAndChangeNothing : Prop :=
  (∀ (s : State) (a : Offset) (z : Size), accessError a z false = true →
    s.busRead a z = { s with status := { s.status with aerr := true }, rdata := some 0 }) ∧
  ∀ (s : State) (a : Offset) (z : Size), accessError a z false = false →
    s.busRead a z = { s with unwrittenRead := (s.busRead a z).unwrittenRead, rdata := (s.busRead a z).rdata } ∧
    (a.toNat < 0x200 → (s.busRead a z).unwrittenRead = s.unwrittenRead) ∧
    (a = 0x004 → (s.busRead a z).rdata = some s.statusWord) ∧
    (a = 0x008 → (s.busRead a z).rdata = some (if s.ie then 1 else 0)) ∧
    (a = 0x00C → (s.busRead a z).rdata = some (BitVec.ofNat 32 s.crc.toNat)) ∧
    (a = 0x010 → (s.busRead a z).rdata = some (BitVec.ofNat 32 s.sum.toNat)) ∧
    (a = 0x014 → (s.busRead a z).rdata = some (BitVec.ofNat 32 s.len.toNat)) ∧
    (a = 0x018 → (s.busRead a z).rdata = some s.serial) ∧
    (a = 0x01C → (s.busRead a z).rdata =
      some (BitVec.ofNat 32 (s.view.unit.toNat + s.view.func.toNat * 0x100 + s.view.plen.toNat * 0x10000))) ∧
    (a = 0x020 → (s.busRead a z).rdata = some (BitVec.ofNat 32 s.view.declen.toNat)) ∧
    (a = 0x024 → (s.busRead a z).rdata = some s.view.respSn) ∧
    (a = 0x028 → (s.busRead a z).rdata = some s.view.respTot) ∧
    (a = 0x02C → (s.busRead a z).rdata = some s.view.respDay) ∧
    (a = 0x030 → (s.busRead a z).rdata = some paramWord) ∧
    (∀ i, a.toNat = 0x200 + i →
      ((s.busRead a z).unwrittenRead = true ↔
        s.unwrittenRead = true ∨ ∃ k, k < z.bytes ∧ s.fbWritten (i + k) = false) ∧
      ∃ v, (s.busRead a z).rdata = some v ∧
        ∀ k, v.extractLsb' (8 * k) 8 = if k < z.bytes then s.fbByte (i + k) else 0)

/-- R48 with R45: a legal FB write while idle stores the low bytes of `wdata`, lowest offset first, leaves every other byte
and all other state as it was, and a legal read of them gives the lowest offset in bits 7:0; with the rule's example. -/
def Obligations.FbWritesAreLittleEndian : Prop :=
  (∀ (s : State) (a : Offset) (z : Size) (v : Word) (i : Nat), accessError a z true = false → a.toNat = 0x200 + i →
    s.status.busy = false →
    (∀ k, k < z.bytes → (s.busWrite a z v).fb.lookup (i + k) = some (v.extractLsb' (8 * k) 8)) ∧
    (∀ j, j < i ∨ i + z.bytes ≤ j →
      (s.busWrite a z v).fb.lookup j = s.fb.lookup j ∧ (s.busWrite a z v).fbByte j = s.fbByte j) ∧
    s.busWrite a z v = { s with fb := (s.busWrite a z v).fb, rdata := none }) ∧
    (∀ (s : State) (a : Offset) (z : Size) (i : Nat), accessError a z false = false → a.toNat = 0x200 + i →
      ∃ v, (s.busRead a z).rdata = some v ∧ ∀ k, k < z.bytes → v.extractLsb' (8 * k) 8 = s.fbByte (i + k)) ∧
    (∀ s : State, s.status.busy = false →
      (List.range' 4 4).map (s.busWrite 0x204 .word 0x44332211).fbByte = [0x11, 0x22, 0x33, 0x44])

/-- R19: STATUS's bits as they are read, reserved bits 0; and a write clears exactly DONE, OVR and AERR where it has a 1,
also while BUSY = 1. -/
def Obligations.StatusBitsAndWriteOneToClear : Prop :=
  (∀ s : State,
    s.statusWord.getLsbD 0 = s.status.busy ∧ s.statusWord.getLsbD 1 = s.status.done ∧
    s.statusWord.getLsbD 2 = s.status.valid ∧ s.statusWord.getLsbD 3 = s.status.ovr ∧
    s.statusWord.getLsbD 4 = s.status.aerr ∧ s.statusWord.extractLsb' 5 3 = 0 ∧
    s.statusWord.extractLsb' 8 4 = s.status.result.code ∧ s.statusWord.extractLsb' 12 20 = 0) ∧
    (∀ (s : State) (w : Word),
      s.busWrite 0x004 .word w = { s with
        status := { s.status with
          done := if w.getLsbD 1 then false else s.status.done
          ovr := if w.getLsbD 3 then false else s.status.ovr
          aerr := if w.getLsbD 4 then false else s.status.aerr }
        rdata := none })

/-- R30, R35, R36: what a host write to CTRL, and while idle to LEN and SERIAL, does. -/
def Obligations.ControlAndOperandWrites : Prop :=
  (∀ (s : State) (w : Word), s.busWrite 0x008 .word w = { s with ie := w.getLsbD 0, rdata := none }) ∧
    (∀ (s : State) (w : Word), s.status.busy = false →
      s.busWrite 0x014 .word w = { s with len := w.extractLsb' 0 16, rdata := none } ∧
      s.busWrite 0x018 .word w = { s with serial := w, rdata := none })

/-- R99 and R23: while BUSY = 1 a legal write to CMD, LEN, SERIAL or FB sets OVR and changes nothing else; writes to STATUS
and CTRL and legal reads are not refused; OVR is cleared only by a STATUS write with bit 3 set or by reset. -/
def Obligations.BusyWritesOverrun : Prop :=
  (∀ (s : State) (a : Offset) (z : Size) (v : Word), s.status.busy = true → accessError a z true = false →
    (a.toNat = 0x000 ∨ a.toNat = 0x014 ∨ a.toNat = 0x018 ∨ 0x200 ≤ a.toNat) →
    s.busWrite a z v = { s with status := { s.status with ovr := true }, rdata := none }) ∧
    (∀ (s : State) (a : Offset) (z : Size) (v : Word), s.status.busy = true → accessError a z true = false →
      (a.toNat = 0x004 ∨ a.toNat = 0x008) → s.busWrite a z v = { s.regWrite a v with rdata := none } ∧
      ((s.busWrite a z v).status.ovr = true → s.status.ovr = true)) ∧
    (∀ (s : State) (a : Offset) (z : Size), accessError a z false = false →
      (s.busRead a z).status = s.status) ∧
    (∀ (s : State) (w : Word), w.getLsbD 3 = true → (s.busWrite 0x004 .word w).status.ovr = false) ∧
    (∀ (op : HostOp) (s : State), s.status.ovr = true → (State.hostAct op s).status.ovr = false →
      ∃ w, op = .write 0x004 .word w ∧ w.getLsbD 3 = true) ∧
    (∀ s t : State, engineStep s = .next t → t.status.ovr = s.status.ovr) ∧
    (∀ s : State, s.resetEvent.status.ovr = false)

/-- R7 and R31: MIN_LEN lies in 32..512, and PARAM reads `{MIN_LEN, 0x0200}`: 0x00200200 when MIN_LEN = 32, 0x00940200 when
MIN_LEN = 148. -/
def Obligations.ParamReportsMinLen : Prop :=
  (32 ≤ Config.minLen ∧ Config.minLen ≤ 512) ∧
    (∀ s : State, ∃ w, (s.busRead 0x030 .word).rdata = some w ∧ w.toNat = Config.minLen * 0x10000 + 0x0200) ∧
    paramWordOf 32 = 0x00200200 ∧ paramWordOf 148 = 0x00940200

/-- R101 and R102: `irq = CTRL.IE & STATUS.DONE`: raised at once by setting IE while DONE = 1, raised by the end of any
command while IE = 1, lowered by clearing DONE, by an accepted CMD write and by clearing IE. -/
def Obligations.IrqFollowsEnableAndDone : Prop :=
  (∀ s : State, s.irq = true ↔ s.ie = true ∧ s.status.done = true) ∧
    (∀ (s : State) (w : Word), (s.busWrite 0x008 .word w).irq = (w.getLsbD 0 && s.status.done)) ∧
    (∀ (s : State) (w : Word), w.getLsbD 1 = true → (s.busWrite 0x004 .word w).irq = false) ∧
    (∀ (s : State) (w : Word), s.status.busy = false → (s.busWrite 0x000 .word w).irq = false) ∧
    (∀ (i : Instr) (s : State), ∃ t, exec i s = .next t ∧ t.irq = s.ie)

/-! Reset. -/

/-- R113, and R114's discarding of a latched command: the reset event puts every register to its reset value, leaves FB as it
was, and irq is 0. -/
def Obligations.ResetEventRestoresResetValues : Prop :=
  ∀ s : State, s.resetEvent.irq = false ∧ (∀ i, s.resetEvent.fbByte i = s.fbByte i) ∧
    s.resetEvent = { s with
      pending := none
      status := { busy := false, done := false, valid := false, ovr := false, aerr := false, result := .ok }
      ie := false
      crc := 0xFFFF
      sum := 0
      len := 0
      serial := 0
      view := { unit := 0, func := 0, plen := 0, declen := 0, respSn := 0, respTot := 0, respDay := 0 } }

/-- R115, with the power-on event of log entry 7 (the model's choice): the first reset after power-on gives the same register
values, and no FB byte has been written. -/
def Obligations.PowerOnForgetsFrameBuffer : Prop :=
  ∀ s : State, (∀ i, s.powerOnEvent.fbWritten i = false) ∧
    s.powerOnEvent = { State.reset with
      powerOns := s.powerOns + 1, hostOps := s.hostOps, turns := s.turns, rdata := s.rdata }

/-- The state after reset meets the invariant. -/
def Obligations.ResetStateMeetsInvariant : Prop := Inv State.reset

/-! The machine as a whole. -/

/-- Every step keeps the invariant: FB in canonical form inside 0..511 (R37), PENDING empty exactly when BUSY = 0 (R18),
DONE only while idle (R122), and no view without a valid frame (R91, R123). -/
def Obligations.StepKeepsInvariant : Prop := ∀ s t : State, Inv s → step s = .next t → Inv t

/-- R95: no error stops the block: from every state of the invariant the machine takes a step, whatever the host does and
whatever word is latched. -/
def Obligations.MachineNeverStops : Prop := ∀ s : State, Inv s → ∃ t, step s = .next t

/-- R55: whatever accesses the host makes while a command is latched, the command's word and operands stay what they were,
and the command computes what it would have computed without them. -/
def Obligations.HostCannotChangeLatchedCommand : Prop :=
  ∀ (s : State) (ops : List HostOp), s.status.busy = true →
    let u := ops.foldl (fun st op => State.hostAct op st) s
    sameDatapath s u ∧ u.status.busy = true ∧
      ∀ t, engineStep s = .next t → ∃ t', engineStep u = .next t' ∧ sameDatapath t t'

/-- R115, R117 and U1, with the record of log entry 5 (the model's choice): a command that ends with no read of a never-written
byte on record computed nothing from one: it ends the same whatever such bytes hold. -/
def Obligations.WrittenBytesDecideResults : Prop :=
  ∀ (i : Instr) (s t : State) (k : Nat), exec i s = .next t → t.unwrittenRead = false →
    exec i { s with powerOns := k } = .next { t with powerOns := k }

/-- U1, with the record of log entry 5 (the model's choice): a range command in range records a read exactly when one of its
bytes was never written since power-on. -/
def Obligations.RangeCommandsRecordUnwrittenReads : Prop :=
  ∀ (i : Instr) (s : State) (start count : Nat), (i = .crcRange start count ∨ i = .sumRange start count) →
    start + count ≤ 512 → ∃ t, exec i s = .next t ∧
      (t.unwrittenRead = true ↔
        s.unwrittenRead = true ∨ ∃ k, start ≤ k ∧ k < start + count ∧ s.fb.lookup k = none)
end

