-- ==== Sys2Proof/Laws/Memory.lean ====
section
/-! SUPPORT. The laws of FB as a list of written bytes: read after write, a write leaves every other index alone, the
canonical form is kept, and equal contents in canonical form are equal lists. -/

namespace Sys2Proof.Machine

@[simp] theorem Memory.lookup_nil (i : Nat) : Memory.lookup [] i = none := rfl

@[simp] theorem Memory.lookup_write_same (m : Memory) (i : Nat) (b : Byte) : (m.write i b).lookup i = some b := by
  induction m with
  | nil => simp [Memory.write, Memory.lookup]
  | cons c m ih =>
    obtain ⟨k, v⟩ := c
    by_cases h1 : k < i
    · simp [Memory.write, Memory.lookup, h1, Nat.ne_of_lt h1, ih]
    · by_cases h2 : k = i
      · simp [Memory.write, Memory.lookup, h2]
      · simp [Memory.write, Memory.lookup, h1, h2]

theorem Memory.lookup_write_other (m : Memory) {i j : Nat} (b : Byte) (h : j ≠ i) :
    (m.write i b).lookup j = m.lookup j := by
  induction m with
  | nil => simp [Memory.write, Memory.lookup, Ne.symm h]
  | cons c m ih =>
    obtain ⟨k, v⟩ := c
    by_cases h1 : k < i
    · simp [Memory.write, Memory.lookup, h1, ih]
    · by_cases h2 : k = i
      · subst h2; simp [Memory.write, Memory.lookup, Ne.symm h]
      · simp [Memory.write, Memory.lookup, h1, h2, Ne.symm h]

theorem Memory.lookup_writeBytes_outside (m : Memory) (i : Nat) (bs : List Byte) {j : Nat}
    (h : j < i ∨ i + bs.length ≤ j) : (m.writeBytes i bs).lookup j = m.lookup j := by
  induction bs generalizing m i with
  | nil => rfl
  | cons b bs ih =>
    simp only [List.length_cons] at h
    rw [Memory.writeBytes, ih _ _ (by omega), Memory.lookup_write_other _ _ (by omega)]

theorem Memory.lookup_writeBytes_inside (m : Memory) (i : Nat) (bs : List Byte) {k : Nat} (h : k < bs.length) :
    (m.writeBytes i bs).lookup (i + k) = some bs[k] := by
  induction bs generalizing m i k with
  | nil => simp at h
  | cons b bs ih =>
    rw [Memory.writeBytes]
    cases k with
    | zero =>
      rw [Memory.lookup_writeBytes_outside _ _ _ (by omega)]
      simp
    | succ k =>
      have := ih (m.write i b) (i + 1) (k := k) (by simpa using h)
      simpa [Nat.add_assoc, Nat.add_comm 1 k] using this

theorem Memory.wfFrom_mono {lo lo' : Nat} {m : Memory} (h : lo' ≤ lo) (hm : Memory.wfFrom lo m = true) :
    Memory.wfFrom lo' m = true := by
  cases m with
  | nil => rfl
  | cons c m =>
    simp only [Memory.wfFrom, Bool.and_eq_true, decide_eq_true_eq] at hm ⊢
    exact ⟨⟨by omega, hm.1.2⟩, hm.2⟩

theorem Memory.wfFrom_write {lo : Nat} {m : Memory} {i : Nat} (b : Byte) (hm : Memory.wfFrom lo m = true)
    (hlo : lo ≤ i) (hi : i < Config.bufCap) : Memory.wfFrom lo (m.write i b) = true := by
  induction m generalizing lo with
  | nil => simp [Memory.write, Memory.wfFrom, hlo, hi]
  | cons c m ih =>
    obtain ⟨k, v⟩ := c
    simp only [Memory.wfFrom, Bool.and_eq_true, decide_eq_true_eq] at hm
    by_cases h1 : k < i
    · simp only [Memory.write, h1, if_true, Memory.wfFrom, Bool.and_eq_true, decide_eq_true_eq]
      exact ⟨hm.1, ih hm.2 h1⟩
    · by_cases h2 : k = i
      · subst h2
        simp only [Memory.write, Nat.lt_irrefl, if_false, if_true, Memory.wfFrom, Bool.and_eq_true, decide_eq_true_eq]
        exact hm
      · simp only [Memory.write, h1, h2, if_false, Memory.wfFrom, Bool.and_eq_true, decide_eq_true_eq]
        exact ⟨⟨hlo, hi⟩, ⟨by omega, hm.1.2⟩, hm.2⟩

/-- A write inside FB keeps the canonical form. -/
theorem Memory.wf_write {m : Memory} {i : Nat} (b : Byte) (hm : m.wf = true) (hi : i < Config.bufCap) :
    (m.write i b).wf = true :=
  Memory.wfFrom_write b hm (Nat.zero_le i) hi

/-- Writes inside FB keep the canonical form. -/
theorem Memory.wf_writeBytes {m : Memory} {i : Nat} {bs : List Byte} (hm : m.wf = true)
    (hi : i + bs.length ≤ Config.bufCap) : (m.writeBytes i bs).wf = true := by
  induction bs generalizing m i with
  | nil => exact hm
  | cons b bs ih =>
    simp only [List.length_cons] at hi
    exact ih (Memory.wf_write b hm (by omega)) (by omega)

theorem Memory.lookup_of_lt {lo : Nat} {m : Memory} (hm : Memory.wfFrom lo m = true) {i : Nat} (h : i < lo) :
    m.lookup i = none := by
  induction m generalizing lo with
  | nil => rfl
  | cons c m ih =>
    obtain ⟨k, v⟩ := c
    simp only [Memory.wfFrom, Bool.and_eq_true, decide_eq_true_eq] at hm
    have hk : k ≠ i := by omega
    simp [Memory.lookup, hk, ih hm.2 (show i < k + 1 by omega)]

theorem Memory.ext_from {lo : Nat} {m n : Memory} (hm : Memory.wfFrom lo m = true) (hn : Memory.wfFrom lo n = true)
    (h : ∀ i, m.lookup i = n.lookup i) : m = n := by
  induction m generalizing lo n with
  | nil =>
    cases n with
    | nil => rfl
    | cons c n => have := h c.1; simp [Memory.lookup] at this
  | cons c m ih =>
    obtain ⟨k, v⟩ := c
    simp only [Memory.wfFrom, Bool.and_eq_true, decide_eq_true_eq] at hm
    cases n with
    | nil => have := h k; simp [Memory.lookup] at this
    | cons d n =>
      obtain ⟨l, w⟩ := d
      simp only [Memory.wfFrom, Bool.and_eq_true, decide_eq_true_eq] at hn
      have hk := h k
      have hl := h l
      simp only [Memory.lookup, if_true] at hk hl
      have hkl : k = l := by
        by_cases hlt : k < l
        · rw [if_neg (by omega), Memory.lookup_of_lt hn.2 (by omega)] at hk; simp at hk
        · by_cases hgt : l < k
          · rw [if_neg (by omega), Memory.lookup_of_lt hm.2 (by omega)] at hl; simp at hl
          · omega
      subst hkl
      simp only [if_true, Option.some.injEq] at hk
      subst hk
      congr 1
      refine ih hm.2 hn.2 fun i => ?_
      by_cases hi : i = k
      · subst hi
        rw [Memory.lookup_of_lt hm.2 (by omega), Memory.lookup_of_lt hn.2 (by omega)]
      · have := h i
        simpa [Memory.lookup, Ne.symm hi] using this

/-- Memories in canonical form with the same contents are the same list. -/
theorem Memory.ext_of_wf {m n : Memory} (hm : m.wf = true) (hn : n.wf = true) (h : ∀ i, m.lookup i = n.lookup i) :
    m = n :=
  Memory.ext_from hm hn h

/-- The lowest byte of a little-endian word is its first byte (R48). -/
theorem leWord_low_byte (b : Byte) (w : Word) : ((w <<< 8) ||| b.setWidth 32).extractLsb' 0 8 = b := by
  ext i hi
  simp only [BitVec.getElem_extractLsb', BitVec.getLsbD_or, BitVec.getLsbD_shiftLeft, BitVec.getLsbD_setWidth]
  simp only [Nat.zero_add, BitVec.getLsbD_eq_getElem hi]
  simp [show i < 32 by omega, show i < 8 from hi]

/-- The higher bytes of a little-endian word come from the bytes after the first (R48). -/
theorem leWord_high_byte (b : Byte) (w : Word) (k : Nat) :
    ((w <<< 8) ||| b.setWidth 32).extractLsb' (8 * (k + 1)) 8 = if k < 3 then w.extractLsb' (8 * k) 8 else 0 := by
  ext i hi
  have : b.getLsbD (8 * (k + 1) + i) = false := BitVec.getLsbD_of_ge _ _ (by omega)
  simp only [BitVec.getElem_extractLsb', BitVec.getLsbD_or, BitVec.getLsbD_shiftLeft, BitVec.getLsbD_setWidth, this]
  split
  · simp [show 8 * (k + 1) + i < 32 by omega, show ¬ 8 * (k + 1) + i < 8 by omega,
      show 8 * (k + 1) + i - 8 = 8 * k + i by omega]
  · simp [show ¬ 8 * (k + 1) + i < 32 by omega]

/-- Byte `k` of a word made of bytes, lowest first, is the `k`-th of them, and 0 beyond them (R44, R48). -/
theorem leWord_byte (bs : List Byte) (h : bs.length ≤ 4) (k : Nat) :
    (leWord bs).extractLsb' (8 * k) 8 = bs[k]?.getD 0 := by
  induction bs generalizing k with
  | nil => simp [leWord]
  | cons b bs ih =>
    cases k with
    | zero => simp only [leWord]; rw [leWord_low_byte]; simp
    | succ k =>
      simp only [leWord]; rw [leWord_high_byte]
      simp only [List.length_cons] at h
      rw [ih (by omega)]
      split
      · simp
      · simp; rw [List.getElem?_eq_none (by omega)]; rfl

theorem leWord_cons_toNat (b : Byte) {w : Word} (h : w.toNat < 16777216) :
    ((w <<< 8) ||| b.setWidth 32).toNat = w.toNat * 256 + b.toNat := by
  have hb := b.isLt
  rw [BitVec.toNat_or, BitVec.toNat_shiftLeft, Nat.shiftLeft_eq, Nat.mod_eq_of_lt (by omega), BitVec.toNat_setWidth,
    Nat.mod_eq_of_lt (a := b.toNat) (by omega), Nat.mul_comm, ← Nat.two_pow_add_eq_or_of_lt hb]

/-- The value of four bytes, lowest first (R13 LE32). -/
theorem leWord_four_toNat (a b c d : Byte) :
    (leWord [a, b, c, d]).toNat = a.toNat + b.toNat * 256 + c.toNat * 65536 + d.toNat * 16777216 := by
  have hb := b.isLt
  have hc := c.isLt
  have hd := d.isLt
  have h1 : (leWord [d]).toNat = d.toNat := by
    rw [leWord, leWord_cons_toNat d (by decide)]
    simp [leWord]
  have h2 : (leWord [c, d]).toNat = c.toNat + d.toNat * 256 := by
    rw [leWord, leWord_cons_toNat c (by omega)]
    omega
  have h3 : (leWord [b, c, d]).toNat = b.toNat + c.toNat * 256 + d.toNat * 65536 := by
    rw [leWord, leWord_cons_toNat b (by omega)]
    omega
  rw [leWord, leWord_cons_toNat a (by omega)]
  omega

end Sys2Proof.Machine
end

