-- ==== Sys2Proof/Laws/State.lean ====
section
/-! SUPPORT. What each named update of the state writes and leaves, one lemma a field, so that no proof unfolds a record
update. -/

namespace Sys2Proof.Machine

/-! `finish` -/

@[simp] theorem State.finish_pending (code : ResultCode) (s : State) : (s.finish code).pending = none := rfl
@[simp] theorem State.finish_busy (code : ResultCode) (s : State) : (s.finish code).status.busy = false := rfl
@[simp] theorem State.finish_done (code : ResultCode) (s : State) : (s.finish code).status.done = true := rfl
@[simp] theorem State.finish_valid (code : ResultCode) (s : State) : (s.finish code).status.valid = s.status.valid := rfl
@[simp] theorem State.finish_ovr (code : ResultCode) (s : State) : (s.finish code).status.ovr = s.status.ovr := rfl
@[simp] theorem State.finish_aerr (code : ResultCode) (s : State) : (s.finish code).status.aerr = s.status.aerr := rfl
@[simp] theorem State.finish_result (code : ResultCode) (s : State) : (s.finish code).status.result = code := rfl
@[simp] theorem State.finish_ie (code : ResultCode) (s : State) : (s.finish code).ie = s.ie := rfl
@[simp] theorem State.finish_crc (code : ResultCode) (s : State) : (s.finish code).crc = s.crc := rfl
@[simp] theorem State.finish_sum (code : ResultCode) (s : State) : (s.finish code).sum = s.sum := rfl
@[simp] theorem State.finish_len (code : ResultCode) (s : State) : (s.finish code).len = s.len := rfl
@[simp] theorem State.finish_serial (code : ResultCode) (s : State) : (s.finish code).serial = s.serial := rfl
@[simp] theorem State.finish_view (code : ResultCode) (s : State) : (s.finish code).view = s.view := rfl
@[simp] theorem State.finish_fb (code : ResultCode) (s : State) : (s.finish code).fb = s.fb := rfl
@[simp] theorem State.finish_powerOns (code : ResultCode) (s : State) : (s.finish code).powerOns = s.powerOns := rfl
@[simp] theorem State.finish_unwrittenRead (code : ResultCode) (s : State) : (s.finish code).unwrittenRead = s.unwrittenRead := rfl
@[simp] theorem State.finish_hostOps (code : ResultCode) (s : State) : (s.finish code).hostOps = s.hostOps := rfl
@[simp] theorem State.finish_turns (code : ResultCode) (s : State) : (s.finish code).turns = s.turns := rfl
@[simp] theorem State.finish_rdata (code : ResultCode) (s : State) : (s.finish code).rdata = s.rdata := rfl

/-! `latch` -/

@[simp] theorem State.latch_pending (w : Word) (s : State) : (s.latch w).pending = some w := rfl
@[simp] theorem State.latch_busy (w : Word) (s : State) : (s.latch w).status.busy = true := rfl
@[simp] theorem State.latch_done (w : Word) (s : State) : (s.latch w).status.done = false := rfl
@[simp] theorem State.latch_valid (w : Word) (s : State) : (s.latch w).status.valid = s.status.valid := rfl
@[simp] theorem State.latch_ovr (w : Word) (s : State) : (s.latch w).status.ovr = s.status.ovr := rfl
@[simp] theorem State.latch_aerr (w : Word) (s : State) : (s.latch w).status.aerr = s.status.aerr := rfl
@[simp] theorem State.latch_result (w : Word) (s : State) : (s.latch w).status.result = s.status.result := rfl
@[simp] theorem State.latch_ie (w : Word) (s : State) : (s.latch w).ie = s.ie := rfl
@[simp] theorem State.latch_crc (w : Word) (s : State) : (s.latch w).crc = s.crc := rfl
@[simp] theorem State.latch_sum (w : Word) (s : State) : (s.latch w).sum = s.sum := rfl
@[simp] theorem State.latch_len (w : Word) (s : State) : (s.latch w).len = s.len := rfl
@[simp] theorem State.latch_serial (w : Word) (s : State) : (s.latch w).serial = s.serial := rfl
@[simp] theorem State.latch_view (w : Word) (s : State) : (s.latch w).view = s.view := rfl
@[simp] theorem State.latch_fb (w : Word) (s : State) : (s.latch w).fb = s.fb := rfl
@[simp] theorem State.latch_powerOns (w : Word) (s : State) : (s.latch w).powerOns = s.powerOns := rfl
@[simp] theorem State.latch_unwrittenRead (w : Word) (s : State) : (s.latch w).unwrittenRead = s.unwrittenRead := rfl
@[simp] theorem State.latch_hostOps (w : Word) (s : State) : (s.latch w).hostOps = s.hostOps := rfl
@[simp] theorem State.latch_turns (w : Word) (s : State) : (s.latch w).turns = s.turns := rfl
@[simp] theorem State.latch_rdata (w : Word) (s : State) : (s.latch w).rdata = s.rdata := rfl

/-! `setAerr` -/

@[simp] theorem State.setAerr_pending (s : State) : s.setAerr.pending = s.pending := rfl
@[simp] theorem State.setAerr_busy (s : State) : s.setAerr.status.busy = s.status.busy := rfl
@[simp] theorem State.setAerr_done (s : State) : s.setAerr.status.done = s.status.done := rfl
@[simp] theorem State.setAerr_valid (s : State) : s.setAerr.status.valid = s.status.valid := rfl
@[simp] theorem State.setAerr_ovr (s : State) : s.setAerr.status.ovr = s.status.ovr := rfl
@[simp] theorem State.setAerr_aerr (s : State) : s.setAerr.status.aerr = true := rfl
@[simp] theorem State.setAerr_result (s : State) : s.setAerr.status.result = s.status.result := rfl
@[simp] theorem State.setAerr_ie (s : State) : s.setAerr.ie = s.ie := rfl
@[simp] theorem State.setAerr_crc (s : State) : s.setAerr.crc = s.crc := rfl
@[simp] theorem State.setAerr_sum (s : State) : s.setAerr.sum = s.sum := rfl
@[simp] theorem State.setAerr_len (s : State) : s.setAerr.len = s.len := rfl
@[simp] theorem State.setAerr_serial (s : State) : s.setAerr.serial = s.serial := rfl
@[simp] theorem State.setAerr_view (s : State) : s.setAerr.view = s.view := rfl
@[simp] theorem State.setAerr_fb (s : State) : s.setAerr.fb = s.fb := rfl
@[simp] theorem State.setAerr_powerOns (s : State) : s.setAerr.powerOns = s.powerOns := rfl
@[simp] theorem State.setAerr_unwrittenRead (s : State) : s.setAerr.unwrittenRead = s.unwrittenRead := rfl
@[simp] theorem State.setAerr_hostOps (s : State) : s.setAerr.hostOps = s.hostOps := rfl
@[simp] theorem State.setAerr_turns (s : State) : s.setAerr.turns = s.turns := rfl
@[simp] theorem State.setAerr_rdata (s : State) : s.setAerr.rdata = s.rdata := rfl

/-! `setOvr` -/

@[simp] theorem State.setOvr_pending (s : State) : s.setOvr.pending = s.pending := rfl
@[simp] theorem State.setOvr_busy (s : State) : s.setOvr.status.busy = s.status.busy := rfl
@[simp] theorem State.setOvr_done (s : State) : s.setOvr.status.done = s.status.done := rfl
@[simp] theorem State.setOvr_valid (s : State) : s.setOvr.status.valid = s.status.valid := rfl
@[simp] theorem State.setOvr_ovr (s : State) : s.setOvr.status.ovr = true := rfl
@[simp] theorem State.setOvr_aerr (s : State) : s.setOvr.status.aerr = s.status.aerr := rfl
@[simp] theorem State.setOvr_result (s : State) : s.setOvr.status.result = s.status.result := rfl
@[simp] theorem State.setOvr_ie (s : State) : s.setOvr.ie = s.ie := rfl
@[simp] theorem State.setOvr_crc (s : State) : s.setOvr.crc = s.crc := rfl
@[simp] theorem State.setOvr_sum (s : State) : s.setOvr.sum = s.sum := rfl
@[simp] theorem State.setOvr_len (s : State) : s.setOvr.len = s.len := rfl
@[simp] theorem State.setOvr_serial (s : State) : s.setOvr.serial = s.serial := rfl
@[simp] theorem State.setOvr_view (s : State) : s.setOvr.view = s.view := rfl
@[simp] theorem State.setOvr_fb (s : State) : s.setOvr.fb = s.fb := rfl
@[simp] theorem State.setOvr_powerOns (s : State) : s.setOvr.powerOns = s.powerOns := rfl
@[simp] theorem State.setOvr_unwrittenRead (s : State) : s.setOvr.unwrittenRead = s.unwrittenRead := rfl
@[simp] theorem State.setOvr_hostOps (s : State) : s.setOvr.hostOps = s.hostOps := rfl
@[simp] theorem State.setOvr_turns (s : State) : s.setOvr.turns = s.turns := rfl
@[simp] theorem State.setOvr_rdata (s : State) : s.setOvr.rdata = s.rdata := rfl

/-! `clearStatus` -/

@[simp] theorem State.clearStatus_pending (w : Word) (s : State) : (s.clearStatus w).pending = s.pending := rfl
@[simp] theorem State.clearStatus_busy (w : Word) (s : State) : (s.clearStatus w).status.busy = s.status.busy := rfl
@[simp] theorem State.clearStatus_done (w : Word) (s : State) : (s.clearStatus w).status.done = (s.status.done && !w.getLsbD 1) := rfl
@[simp] theorem State.clearStatus_valid (w : Word) (s : State) : (s.clearStatus w).status.valid = s.status.valid := rfl
@[simp] theorem State.clearStatus_ovr (w : Word) (s : State) : (s.clearStatus w).status.ovr = (s.status.ovr && !w.getLsbD 3) := rfl
@[simp] theorem State.clearStatus_aerr (w : Word) (s : State) : (s.clearStatus w).status.aerr = (s.status.aerr && !w.getLsbD 4) := rfl
@[simp] theorem State.clearStatus_result (w : Word) (s : State) : (s.clearStatus w).status.result = s.status.result := rfl
@[simp] theorem State.clearStatus_ie (w : Word) (s : State) : (s.clearStatus w).ie = s.ie := rfl
@[simp] theorem State.clearStatus_crc (w : Word) (s : State) : (s.clearStatus w).crc = s.crc := rfl
@[simp] theorem State.clearStatus_sum (w : Word) (s : State) : (s.clearStatus w).sum = s.sum := rfl
@[simp] theorem State.clearStatus_len (w : Word) (s : State) : (s.clearStatus w).len = s.len := rfl
@[simp] theorem State.clearStatus_serial (w : Word) (s : State) : (s.clearStatus w).serial = s.serial := rfl
@[simp] theorem State.clearStatus_view (w : Word) (s : State) : (s.clearStatus w).view = s.view := rfl
@[simp] theorem State.clearStatus_fb (w : Word) (s : State) : (s.clearStatus w).fb = s.fb := rfl
@[simp] theorem State.clearStatus_powerOns (w : Word) (s : State) : (s.clearStatus w).powerOns = s.powerOns := rfl
@[simp] theorem State.clearStatus_unwrittenRead (w : Word) (s : State) : (s.clearStatus w).unwrittenRead = s.unwrittenRead := rfl
@[simp] theorem State.clearStatus_hostOps (w : Word) (s : State) : (s.clearStatus w).hostOps = s.hostOps := rfl
@[simp] theorem State.clearStatus_turns (w : Word) (s : State) : (s.clearStatus w).turns = s.turns := rfl
@[simp] theorem State.clearStatus_rdata (w : Word) (s : State) : (s.clearStatus w).rdata = s.rdata := rfl

/-! `noteReads` -/

@[simp] theorem State.noteReads_pending (start count : Nat) (s : State) : (s.noteReads start count).pending = s.pending := rfl
@[simp] theorem State.noteReads_status (start count : Nat) (s : State) : (s.noteReads start count).status = s.status := rfl
@[simp] theorem State.noteReads_ie (start count : Nat) (s : State) : (s.noteReads start count).ie = s.ie := rfl
@[simp] theorem State.noteReads_crc (start count : Nat) (s : State) : (s.noteReads start count).crc = s.crc := rfl
@[simp] theorem State.noteReads_sum (start count : Nat) (s : State) : (s.noteReads start count).sum = s.sum := rfl
@[simp] theorem State.noteReads_len (start count : Nat) (s : State) : (s.noteReads start count).len = s.len := rfl
@[simp] theorem State.noteReads_serial (start count : Nat) (s : State) : (s.noteReads start count).serial = s.serial := rfl
@[simp] theorem State.noteReads_view (start count : Nat) (s : State) : (s.noteReads start count).view = s.view := rfl
@[simp] theorem State.noteReads_fb (start count : Nat) (s : State) : (s.noteReads start count).fb = s.fb := rfl
@[simp] theorem State.noteReads_powerOns (start count : Nat) (s : State) : (s.noteReads start count).powerOns = s.powerOns := rfl
@[simp] theorem State.noteReads_unwrittenRead (start count : Nat) (s : State) :
    (s.noteReads start count).unwrittenRead = (s.unwrittenRead || (fbRange start count).any fun i => !s.fbWritten i) := rfl
@[simp] theorem State.noteReads_hostOps (start count : Nat) (s : State) : (s.noteReads start count).hostOps = s.hostOps := rfl
@[simp] theorem State.noteReads_turns (start count : Nat) (s : State) : (s.noteReads start count).turns = s.turns := rfl
@[simp] theorem State.noteReads_rdata (start count : Nat) (s : State) : (s.noteReads start count).rdata = s.rdata := rfl

/-! `storeFb` -/

@[simp] theorem State.storeFb_pending (start : Nat) (bs : List Byte) (s : State) : (s.storeFb start bs).pending = s.pending := rfl
@[simp] theorem State.storeFb_status (start : Nat) (bs : List Byte) (s : State) : (s.storeFb start bs).status = s.status := rfl
@[simp] theorem State.storeFb_ie (start : Nat) (bs : List Byte) (s : State) : (s.storeFb start bs).ie = s.ie := rfl
@[simp] theorem State.storeFb_crc (start : Nat) (bs : List Byte) (s : State) : (s.storeFb start bs).crc = s.crc := rfl
@[simp] theorem State.storeFb_sum (start : Nat) (bs : List Byte) (s : State) : (s.storeFb start bs).sum = s.sum := rfl
@[simp] theorem State.storeFb_len (start : Nat) (bs : List Byte) (s : State) : (s.storeFb start bs).len = s.len := rfl
@[simp] theorem State.storeFb_serial (start : Nat) (bs : List Byte) (s : State) : (s.storeFb start bs).serial = s.serial := rfl
@[simp] theorem State.storeFb_view (start : Nat) (bs : List Byte) (s : State) : (s.storeFb start bs).view = s.view := rfl
@[simp] theorem State.storeFb_fb (start : Nat) (bs : List Byte) (s : State) : (s.storeFb start bs).fb = s.fb.writeBytes start bs := rfl
@[simp] theorem State.storeFb_powerOns (start : Nat) (bs : List Byte) (s : State) : (s.storeFb start bs).powerOns = s.powerOns := rfl
@[simp] theorem State.storeFb_unwrittenRead (start : Nat) (bs : List Byte) (s : State) : (s.storeFb start bs).unwrittenRead = s.unwrittenRead := rfl
@[simp] theorem State.storeFb_hostOps (start : Nat) (bs : List Byte) (s : State) : (s.storeFb start bs).hostOps = s.hostOps := rfl
@[simp] theorem State.storeFb_turns (start : Nat) (bs : List Byte) (s : State) : (s.storeFb start bs).turns = s.turns := rfl
@[simp] theorem State.storeFb_rdata (start : Nat) (bs : List Byte) (s : State) : (s.storeFb start bs).rdata = s.rdata := rfl

/-! `reject` -/

@[simp] theorem State.reject_pending (code : ResultCode) (s : State) : (s.reject code).pending = none := rfl
@[simp] theorem State.reject_busy (code : ResultCode) (s : State) : (s.reject code).status.busy = false := rfl
@[simp] theorem State.reject_done (code : ResultCode) (s : State) : (s.reject code).status.done = true := rfl
@[simp] theorem State.reject_valid (code : ResultCode) (s : State) : (s.reject code).status.valid = false := rfl
@[simp] theorem State.reject_ovr (code : ResultCode) (s : State) : (s.reject code).status.ovr = s.status.ovr := rfl
@[simp] theorem State.reject_aerr (code : ResultCode) (s : State) : (s.reject code).status.aerr = s.status.aerr := rfl
@[simp] theorem State.reject_result (code : ResultCode) (s : State) : (s.reject code).status.result = code := rfl
@[simp] theorem State.reject_ie (code : ResultCode) (s : State) : (s.reject code).ie = s.ie := rfl
@[simp] theorem State.reject_crc (code : ResultCode) (s : State) : (s.reject code).crc = s.crc := rfl
@[simp] theorem State.reject_sum (code : ResultCode) (s : State) : (s.reject code).sum = s.sum := rfl
@[simp] theorem State.reject_len (code : ResultCode) (s : State) : (s.reject code).len = s.len := rfl
@[simp] theorem State.reject_serial (code : ResultCode) (s : State) : (s.reject code).serial = s.serial := rfl
@[simp] theorem State.reject_view (code : ResultCode) (s : State) : (s.reject code).view = View.zero := rfl
@[simp] theorem State.reject_fb (code : ResultCode) (s : State) : (s.reject code).fb = s.fb := rfl
@[simp] theorem State.reject_powerOns (code : ResultCode) (s : State) : (s.reject code).powerOns = s.powerOns := rfl
@[simp] theorem State.reject_unwrittenRead (code : ResultCode) (s : State) : (s.reject code).unwrittenRead = s.unwrittenRead := rfl
@[simp] theorem State.reject_hostOps (code : ResultCode) (s : State) : (s.reject code).hostOps = s.hostOps := rfl
@[simp] theorem State.reject_turns (code : ResultCode) (s : State) : (s.reject code).turns = s.turns := rfl
@[simp] theorem State.reject_rdata (code : ResultCode) (s : State) : (s.reject code).rdata = s.rdata := rfl

/-! `accept` -/

@[simp] theorem State.accept_pending (s : State) : s.accept.pending = none := rfl
@[simp] theorem State.accept_busy (s : State) : s.accept.status.busy = false := rfl
@[simp] theorem State.accept_done (s : State) : s.accept.status.done = true := rfl
@[simp] theorem State.accept_valid (s : State) : s.accept.status.valid = true := rfl
@[simp] theorem State.accept_ovr (s : State) : s.accept.status.ovr = s.status.ovr := rfl
@[simp] theorem State.accept_aerr (s : State) : s.accept.status.aerr = s.status.aerr := rfl
@[simp] theorem State.accept_result (s : State) : s.accept.status.result = .ok := rfl
@[simp] theorem State.accept_ie (s : State) : s.accept.ie = s.ie := rfl
@[simp] theorem State.accept_crc (s : State) : s.accept.crc = s.crc := rfl
@[simp] theorem State.accept_sum (s : State) : s.accept.sum = s.sum := rfl
@[simp] theorem State.accept_len (s : State) : s.accept.len = s.len := rfl
@[simp] theorem State.accept_serial (s : State) : s.accept.serial = s.serial := rfl
@[simp] theorem State.accept_view (s : State) : s.accept.view = s.frameView := rfl
@[simp] theorem State.accept_fb (s : State) : s.accept.fb = s.fb := rfl
@[simp] theorem State.accept_powerOns (s : State) : s.accept.powerOns = s.powerOns := rfl
@[simp] theorem State.accept_unwrittenRead (s : State) : s.accept.unwrittenRead = s.unwrittenRead := rfl
@[simp] theorem State.accept_hostOps (s : State) : s.accept.hostOps = s.hostOps := rfl
@[simp] theorem State.accept_turns (s : State) : s.accept.turns = s.turns := rfl
@[simp] theorem State.accept_rdata (s : State) : s.accept.rdata = s.rdata := rfl

/-! `resetEvent` -/

@[simp] theorem State.resetEvent_pending (s : State) : s.resetEvent.pending = none := rfl
@[simp] theorem State.resetEvent_status (s : State) : s.resetEvent.status = Status.zero := rfl
@[simp] theorem State.resetEvent_ie (s : State) : s.resetEvent.ie = false := rfl
@[simp] theorem State.resetEvent_crc (s : State) : s.resetEvent.crc = 0xFFFF := rfl
@[simp] theorem State.resetEvent_sum (s : State) : s.resetEvent.sum = 0 := rfl
@[simp] theorem State.resetEvent_len (s : State) : s.resetEvent.len = 0 := rfl
@[simp] theorem State.resetEvent_serial (s : State) : s.resetEvent.serial = 0 := rfl
@[simp] theorem State.resetEvent_view (s : State) : s.resetEvent.view = View.zero := rfl
@[simp] theorem State.resetEvent_fb (s : State) : s.resetEvent.fb = s.fb := rfl
@[simp] theorem State.resetEvent_powerOns (s : State) : s.resetEvent.powerOns = s.powerOns := rfl
@[simp] theorem State.resetEvent_unwrittenRead (s : State) : s.resetEvent.unwrittenRead = s.unwrittenRead := rfl
@[simp] theorem State.resetEvent_hostOps (s : State) : s.resetEvent.hostOps = s.hostOps := rfl
@[simp] theorem State.resetEvent_turns (s : State) : s.resetEvent.turns = s.turns := rfl
@[simp] theorem State.resetEvent_rdata (s : State) : s.resetEvent.rdata = s.rdata := rfl

/-! `powerOnEvent` -/

@[simp] theorem State.powerOnEvent_pending (s : State) : s.powerOnEvent.pending = none := rfl
@[simp] theorem State.powerOnEvent_status (s : State) : s.powerOnEvent.status = Status.zero := rfl
@[simp] theorem State.powerOnEvent_ie (s : State) : s.powerOnEvent.ie = false := rfl
@[simp] theorem State.powerOnEvent_crc (s : State) : s.powerOnEvent.crc = 0xFFFF := rfl
@[simp] theorem State.powerOnEvent_sum (s : State) : s.powerOnEvent.sum = 0 := rfl
@[simp] theorem State.powerOnEvent_len (s : State) : s.powerOnEvent.len = 0 := rfl
@[simp] theorem State.powerOnEvent_serial (s : State) : s.powerOnEvent.serial = 0 := rfl
@[simp] theorem State.powerOnEvent_view (s : State) : s.powerOnEvent.view = View.zero := rfl
@[simp] theorem State.powerOnEvent_fb (s : State) : s.powerOnEvent.fb = [] := rfl
@[simp] theorem State.powerOnEvent_powerOns (s : State) : s.powerOnEvent.powerOns = s.powerOns + 1 := rfl
@[simp] theorem State.powerOnEvent_unwrittenRead (s : State) : s.powerOnEvent.unwrittenRead = false := rfl
@[simp] theorem State.powerOnEvent_hostOps (s : State) : s.powerOnEvent.hostOps = s.hostOps := rfl
@[simp] theorem State.powerOnEvent_turns (s : State) : s.powerOnEvent.turns = s.turns := rfl
@[simp] theorem State.powerOnEvent_rdata (s : State) : s.powerOnEvent.rdata = s.rdata := rfl

/-! What reads of FB see through an update that leaves `fb` and `powerOns` alone. -/

theorem State.fbByte_congr {s t : State} (h : s.fb = t.fb) (hp : s.powerOns = t.powerOns) (i : Nat) :
    s.fbByte i = t.fbByte i := by
  simp only [State.fbByte, h, hp]

theorem State.fbBytes_congr {s t : State} (h : s.fb = t.fb) (hp : s.powerOns = t.powerOns) (i n : Nat) :
    s.fbBytes i n = t.fbBytes i n := by
  simp only [State.fbBytes, show s.fbByte = t.fbByte from funext (State.fbByte_congr h hp)]

@[simp] theorem State.fbByte_finish (code : ResultCode) (s : State) (i : Nat) : (s.finish code).fbByte i = s.fbByte i := rfl
@[simp] theorem State.fbByte_noteReads (a n : Nat) (s : State) (i : Nat) : (s.noteReads a n).fbByte i = s.fbByte i := rfl
@[simp] theorem State.fbBytes_noteReads (a n : Nat) (s : State) (i k : Nat) :
    (s.noteReads a n).fbBytes i k = s.fbBytes i k := rfl
@[simp] theorem State.frameView_noteReads (a n : Nat) (s : State) : (s.noteReads a n).frameView = s.frameView := rfl

@[simp] theorem State.fbBytes_length (s : State) (i n : Nat) : (s.fbBytes i n).length = n := by
  simp [State.fbBytes, fbRange]

end Sys2Proof.Machine
end

