-- ==== Sys2Proof/Laws/Bus.lean ====
section
/-! SUPPORT. What a bus access can do: where a legal access lies, and the cases of a read, a write and a host step. -/

namespace Sys2Proof.Machine

@[simp] theorem wordBytes_length (v : Word) (n : Nat) : (wordBytes v n).length = n := by simp [wordBytes]

theorem aligned_eq_mod {a : Offset} {z : Size} (h : aligned a z = true) : a.toNat % z.bytes = 0 := by
  unfold aligned at h
  exact beq_iff_eq.mp h

/-- An access that is no error is aligned and has a real size (R46 (a), (b)). -/
theorem accessError_false {a : Offset} {z : Size} {w : Bool} (h : accessError a z w = false) :
    z ≠ .reserved ∧ a.toNat % z.bytes = 0 := by
  unfold accessError at h
  have hza := Bool.or_eq_false_iff.mp (Bool.or_eq_false_iff.mp (Bool.or_eq_false_iff.mp (Bool.or_eq_false_iff.mp
    (Bool.or_eq_false_iff.mp (Bool.or_eq_false_iff.mp h).1).1).1).1).1
  exact ⟨beq_eq_false_iff_ne.mp hza.1, aligned_eq_mod (by simpa using hza.2)⟩

/-- The bus offset of FB byte `i` is 0x200 + i (R41). -/
theorem fbIndex_eq {a : Offset} {i : Nat} (h : a.toNat = 0x200 + i) : fbIndex a = i := by
  unfold fbIndex
  omega

/-- A legal access to the FB window lies wholly inside FB (R43). -/
theorem fbIndex_add_le {a : Offset} {z : Size} {w : Bool} (h : accessError a z w = false) (hf : inFbWindow a = true) :
    fbIndex a + z.bytes ≤ Config.bufCap := by
  have hz := (accessError_false h).1
  have ha := (accessError_false h).2
  simp only [inFbWindow, Bool.and_eq_true, decide_eq_true_eq] at hf
  obtain ⟨hlo, hhi⟩ := hf
  unfold fbIndex Config.bufCap
  cases z with
  | byte => simp only [Size.bytes] at ha ⊢; omega
  | half => simp only [Size.bytes] at ha ⊢; omega
  | word => simp only [Size.bytes] at ha ⊢; omega
  | reserved => exact absurd rfl hz

/-- What a read can do (R44). -/
theorem State.busRead_cases (a : Offset) (z : Size) (s : State) :
    (accessError a z false = true ∧ s.busRead a z = { s.setAerr with rdata := some 0 }) ∨
    (accessError a z false = false ∧ inFbWindow a = true ∧ s.busRead a z =
      { s.noteReads (fbIndex a) z.bytes with rdata := some (leWord (s.fbBytes (fbIndex a) z.bytes)) }) ∨
    (accessError a z false = false ∧ inFbWindow a = false ∧ s.busRead a z = { s with rdata := some (s.regWord a) }) := by
  unfold State.busRead
  cases accessError a z false <;> cases inFbWindow a <;> simp

/-! The registers as they are read, one lemma a register (R41, R44). -/

theorem State.regWord_status (s : State) : s.regWord Offset.status = s.statusWord := by
  unfold State.regWord
  rw [if_pos rfl]

theorem State.regWord_ctrl (s : State) : s.regWord Offset.ctrl = flagBit s.ie 0 := by
  unfold State.regWord
  rw [if_neg (by decide)]
  rw [if_pos rfl]

theorem State.regWord_crc (s : State) : s.regWord Offset.crc = s.crc.setWidth 32 := by
  unfold State.regWord
  rw [if_neg (by decide)]
  rw [if_neg (by decide)]
  rw [if_pos rfl]

theorem State.regWord_sum (s : State) : s.regWord Offset.sum = s.sum.setWidth 32 := by
  unfold State.regWord
  rw [if_neg (by decide)]
  rw [if_neg (by decide)]
  rw [if_neg (by decide)]
  rw [if_pos rfl]

theorem State.regWord_len (s : State) : s.regWord Offset.len = s.len.setWidth 32 := by
  unfold State.regWord
  rw [if_neg (by decide)]
  rw [if_neg (by decide)]
  rw [if_neg (by decide)]
  rw [if_neg (by decide)]
  rw [if_pos rfl]

theorem State.regWord_serial (s : State) : s.regWord Offset.serial = s.serial := by
  unfold State.regWord
  rw [if_neg (by decide)]
  rw [if_neg (by decide)]
  rw [if_neg (by decide)]
  rw [if_neg (by decide)]
  rw [if_neg (by decide)]
  rw [if_pos rfl]

theorem State.regWord_view0 (s : State) : s.regWord Offset.view0 = s.view.word0 := by
  unfold State.regWord
  rw [if_neg (by decide)]
  rw [if_neg (by decide)]
  rw [if_neg (by decide)]
  rw [if_neg (by decide)]
  rw [if_neg (by decide)]
  rw [if_neg (by decide)]
  rw [if_pos rfl]

theorem State.regWord_view1 (s : State) : s.regWord Offset.view1 = s.view.declen.setWidth 32 := by
  unfold State.regWord
  rw [if_neg (by decide)]
  rw [if_neg (by decide)]
  rw [if_neg (by decide)]
  rw [if_neg (by decide)]
  rw [if_neg (by decide)]
  rw [if_neg (by decide)]
  rw [if_neg (by decide)]
  rw [if_pos rfl]

theorem State.regWord_respSn (s : State) : s.regWord Offset.respSn = s.view.respSn := by
  unfold State.regWord
  rw [if_neg (by decide)]
  rw [if_neg (by decide)]
  rw [if_neg (by decide)]
  rw [if_neg (by decide)]
  rw [if_neg (by decide)]
  rw [if_neg (by decide)]
  rw [if_neg (by decide)]
  rw [if_neg (by decide)]
  rw [if_pos rfl]

theorem State.regWord_respTot (s : State) : s.regWord Offset.respTot = s.view.respTot := by
  unfold State.regWord
  rw [if_neg (by decide)]
  rw [if_neg (by decide)]
  rw [if_neg (by decide)]
  rw [if_neg (by decide)]
  rw [if_neg (by decide)]
  rw [if_neg (by decide)]
  rw [if_neg (by decide)]
  rw [if_neg (by decide)]
  rw [if_neg (by decide)]
  rw [if_pos rfl]

theorem State.regWord_respDay (s : State) : s.regWord Offset.respDay = s.view.respDay := by
  unfold State.regWord
  rw [if_neg (by decide)]
  rw [if_neg (by decide)]
  rw [if_neg (by decide)]
  rw [if_neg (by decide)]
  rw [if_neg (by decide)]
  rw [if_neg (by decide)]
  rw [if_neg (by decide)]
  rw [if_neg (by decide)]
  rw [if_neg (by decide)]
  rw [if_neg (by decide)]
  rw [if_pos rfl]

theorem State.regWord_param (s : State) : s.regWord Offset.param = paramWord := by
  unfold State.regWord
  rw [if_neg (by decide)]
  rw [if_neg (by decide)]
  rw [if_neg (by decide)]
  rw [if_neg (by decide)]
  rw [if_neg (by decide)]
  rw [if_neg (by decide)]
  rw [if_neg (by decide)]
  rw [if_neg (by decide)]
  rw [if_neg (by decide)]
  rw [if_neg (by decide)]
  rw [if_neg (by decide)]
  rw [if_pos rfl]

/-- A legal read of a register returns it and changes nothing else (R44). -/
theorem State.busRead_reg {a : Offset} {z : Size} (h : accessError a z false = false) (hf : inFbWindow a = false)
    (s : State) : s.busRead a z = { s with rdata := some (s.regWord a) } := by
  unfold State.busRead
  rw [h, hf]
  rfl

/-- What a write that only the idle block takes can do (R45, R99). -/
theorem State.unlessBusy_cases (s s' : State) :
    (s.status.busy = true ∧ s.unlessBusy s' = s.setOvr) ∨ (s.status.busy = false ∧ s.unlessBusy s' = s') := by
  unfold State.unlessBusy
  cases s.status.busy <;> simp

/-- What a legal register write can do (R45). -/
theorem State.regWrite_cases (a : Offset) (v : Word) (s : State) :
    (a = Offset.cmd ∧ s.regWrite a v = s.unlessBusy (s.latch v)) ∨
    (a = Offset.status ∧ s.regWrite a v = s.clearStatus v) ∨
    (a = Offset.ctrl ∧ s.regWrite a v = { s with ie := v.getLsbD 0 }) ∨
    (a = Offset.len ∧ s.regWrite a v = s.unlessBusy { s with len := v.setWidth 16 }) ∨
    (a = Offset.serial ∧ s.regWrite a v = s.unlessBusy { s with serial := v }) ∨ s.regWrite a v = s := by
  unfold State.regWrite
  split
  · exact .inl ⟨‹_›, rfl⟩
  · split
    · exact .inr (.inl ⟨‹_›, rfl⟩)
    · split
      · exact .inr (.inr (.inl ⟨‹_›, rfl⟩))
      · split
        · exact .inr (.inr (.inr (.inl ⟨‹_›, rfl⟩)))
        · split
          · exact .inr (.inr (.inr (.inr (.inl ⟨‹_›, rfl⟩))))
          · exact .inr (.inr (.inr (.inr (.inr rfl))))

/-- What a write can do (R45). -/
theorem State.busWrite_cases (a : Offset) (z : Size) (v : Word) (s : State) :
    (accessError a z true = true ∧ s.busWrite a z v = { s.setAerr with rdata := none }) ∨
    (accessError a z true = false ∧ inFbWindow a = true ∧ s.busWrite a z v =
      { s.unlessBusy (s.storeFb (fbIndex a) (wordBytes v z.bytes)) with rdata := none }) ∨
    (accessError a z true = false ∧ inFbWindow a = false ∧
      s.busWrite a z v = { s.regWrite a v with rdata := none }) := by
  unfold State.busWrite
  cases accessError a z true <;> cases inFbWindow a <;> simp

/-- What a host step can do (R14, R67). -/
theorem State.hostStep_cases (s : State) :
    (s.hostOps = [] ∧ s.hostStep = s) ∨
    (∃ a z rest, s.hostOps = .read a z :: rest ∧ s.hostStep = State.busRead a z { s with hostOps := rest }) ∨
    (∃ a z v rest, s.hostOps = .write a z v :: rest ∧ s.hostStep = State.busWrite a z v { s with hostOps := rest }) ∨
    (∃ rest, s.hostOps = .wait :: rest ∧ s.status.busy = true ∧
      s.hostStep = { State.busRead Offset.status .word { s with hostOps := rest } with hostOps := .wait :: rest }) ∨
    (∃ rest, s.hostOps = .wait :: rest ∧ s.status.busy = false ∧
      s.hostStep = State.busRead Offset.status .word { s with hostOps := rest }) := by
  unfold State.hostStep
  split
  · next h => exact .inl ⟨h, rfl⟩
  · next op rest h =>
    cases op with
    | read a z => exact .inr (.inl ⟨a, z, rest, h, rfl⟩)
    | write a z v => exact .inr (.inr (.inl ⟨a, z, v, rest, h, rfl⟩))
    | wait =>
      cases hb : s.status.busy with
      | true => exact .inr (.inr (.inr (.inl ⟨rest, h, rfl, by simp [State.hostAct, hb]⟩)))
      | false => exact .inr (.inr (.inr (.inr ⟨rest, h, rfl, by simp [State.hostAct, hb]⟩)))

/-- A legal access to a register is a word access (R42). -/
theorem accessError_false_word {a : Offset} {z : Size} {w : Bool} (h : accessError a z w = false)
    (hr : inRegRegion a = true) : z = .word := by
  unfold accessError at h
  have h4 := (Bool.or_eq_false_iff.mp (Bool.or_eq_false_iff.mp (Bool.or_eq_false_iff.mp (Bool.or_eq_false_iff.mp
    h).1).1).1).2
  rw [hr] at h4
  simpa using h4

/-- What a write can do, said once (R45, R47, R99). -/
theorem State.busWrite_effect (a : Offset) (z : Size) (v : Word) (s : State) :
    ((s.busWrite a z v = { s.setAerr with rdata := none } ∨ s.busWrite a z v = { s.setOvr with rdata := none } ∨
      s.busWrite a z v = { s with rdata := none })) ∨
    (a = Offset.cmd ∧ z = .word ∧ s.status.busy = false ∧ s.busWrite a z v = { s.latch v with rdata := none }) ∨
    (a = Offset.status ∧ z = .word ∧ s.busWrite a z v = { s.clearStatus v with rdata := none }) ∨
    (a = Offset.ctrl ∧ z = .word ∧ s.busWrite a z v = { s with ie := v.getLsbD 0, rdata := none }) ∨
    (a = Offset.len ∧ z = .word ∧ s.status.busy = false ∧
      s.busWrite a z v = { s with len := v.setWidth 16, rdata := none }) ∨
    (a = Offset.serial ∧ z = .word ∧ s.status.busy = false ∧ s.busWrite a z v = { s with serial := v, rdata := none }) ∨
    (accessError a z true = false ∧ inFbWindow a = true ∧ s.status.busy = false ∧
      s.busWrite a z v = { s.storeFb (fbIndex a) (wordBytes v z.bytes) with rdata := none }) := by
  obtain ⟨_, h⟩ | ⟨he, hf, h⟩ | ⟨he, hf, h⟩ := s.busWrite_cases a z v
  · exact .inl (.inl h)
  · obtain ⟨hb, hu⟩ | ⟨hb, hu⟩ := s.unlessBusy_cases (s.storeFb (fbIndex a) (wordBytes v z.bytes))
    · exact .inl (.inr (.inl (by rw [h, hu])))
    · exact .inr (.inr (.inr (.inr (.inr (.inr ⟨he, hf, hb, by rw [h, hu]⟩)))))
  · obtain ⟨ha, hw⟩ | ⟨ha, hw⟩ | ⟨ha, hw⟩ | ⟨ha, hw⟩ | ⟨ha, hw⟩ | hw := s.regWrite_cases a v
    · have hz := accessError_false_word he (by rw [ha]; decide)
      obtain ⟨hb, hu⟩ | ⟨hb, hu⟩ := s.unlessBusy_cases (s.latch v)
      · exact .inl (.inr (.inl (by rw [h, hw, hu])))
      · exact .inr (.inl ⟨ha, hz, hb, by rw [h, hw, hu]⟩)
    · exact .inr (.inr (.inl ⟨ha, accessError_false_word he (by rw [ha]; decide), by rw [h, hw]⟩))
    · exact .inr (.inr (.inr (.inl ⟨ha, accessError_false_word he (by rw [ha]; decide), by rw [h, hw]⟩)))
    · have hz := accessError_false_word he (by rw [ha]; decide)
      obtain ⟨hb, hu⟩ | ⟨hb, hu⟩ := s.unlessBusy_cases { s with len := v.setWidth 16 }
      · exact .inl (.inr (.inl (by rw [h, hw, hu])))
      · exact .inr (.inr (.inr (.inr (.inl ⟨ha, hz, hb, by rw [h, hw, hu]⟩))))
    · have hz := accessError_false_word he (by rw [ha]; decide)
      obtain ⟨hb, hu⟩ | ⟨hb, hu⟩ := s.unlessBusy_cases { s with serial := v }
      · exact .inl (.inr (.inl (by rw [h, hw, hu])))
      · exact .inr (.inr (.inr (.inr (.inr (.inl ⟨ha, hz, hb, by rw [h, hw, hu]⟩)))))
    · exact .inl (.inr (.inr (by rw [h, hw])))

/-- A host step that writes nothing the block holds but the two sticky bits, which it can only set. -/
structure QuietStep (s t : State) : Prop where
  same : t = { s with
    status := { s.status with ovr := t.status.ovr, aerr := t.status.aerr }
    unwrittenRead := t.unwrittenRead
    hostOps := t.hostOps
    rdata := t.rdata }
  ovr : s.status.ovr = true → t.status.ovr = true
  aerr : s.status.aerr = true → t.status.aerr = true

theorem State.busRead_quiet (a : Offset) (z : Size) (s : State) (rest : List HostOp) :
    QuietStep s (State.busRead a z { s with hostOps := rest }) := by
  obtain ⟨_, h⟩ | ⟨_, _, h⟩ | ⟨_, _, h⟩ := State.busRead_cases a z { s with hostOps := rest } <;> rw [h] <;>
    constructor <;> simp [State.setAerr, State.noteReads]

theorem QuietStep.hostOps {s t : State} (h : QuietStep s t) (ops : List HostOp) :
    QuietStep s { t with hostOps := ops } := ⟨by rw [h.same], h.ovr, h.aerr⟩

/-- What a host step can do, said once (R14, R45, R47, R67, R99). -/
theorem State.hostStep_effect (s : State) :
    QuietStep s s.hostStep ∨
    (∃ v rest, s.hostOps = .write Offset.cmd .word v :: rest ∧ s.status.busy = false ∧
      s.hostStep = { s.latch v with hostOps := rest, rdata := none }) ∨
    (∃ v rest, s.hostOps = .write Offset.status .word v :: rest ∧
      s.hostStep = { s.clearStatus v with hostOps := rest, rdata := none }) ∨
    (∃ v rest, s.hostOps = .write Offset.ctrl .word v :: rest ∧
      s.hostStep = { s with ie := v.getLsbD 0, hostOps := rest, rdata := none }) ∨
    (∃ v rest, s.hostOps = .write Offset.len .word v :: rest ∧ s.status.busy = false ∧
      s.hostStep = { s with len := v.setWidth 16, hostOps := rest, rdata := none }) ∨
    (∃ v rest, s.hostOps = .write Offset.serial .word v :: rest ∧ s.status.busy = false ∧
      s.hostStep = { s with serial := v, hostOps := rest, rdata := none }) ∨
    (∃ a z v rest, s.hostOps = .write a z v :: rest ∧ s.status.busy = false ∧ accessError a z true = false ∧
      inFbWindow a = true ∧
      s.hostStep = { s.storeFb (fbIndex a) (wordBytes v z.bytes) with hostOps := rest, rdata := none }) := by
  obtain ⟨_, h⟩ | ⟨a, z, rest, _, h⟩ | ⟨a, z, v, rest, ho, h⟩ | ⟨rest, _, _, h⟩ | ⟨rest, _, _, h⟩ := s.hostStep_cases
  · rw [h]; exact .inl ⟨rfl, id, id⟩
  · rw [h]; exact .inl (s.busRead_quiet a z rest)
  · rw [h]
    obtain (h | h | h) | ⟨rfl, rfl, hb, h⟩ | ⟨rfl, rfl, h⟩ | ⟨rfl, rfl, h⟩ | ⟨rfl, rfl, hb, h⟩ | ⟨rfl, rfl, hb, h⟩ |
      ⟨he, hf, hb, h⟩ := State.busWrite_effect a z v { s with hostOps := rest } <;> rw [h]
    · left; constructor <;> simp [State.setAerr]
    · left; constructor <;> simp [State.setOvr]
    · left; constructor <;> simp
    · exact .inr (.inl ⟨v, rest, ho, hb, rfl⟩)
    · exact .inr (.inr (.inl ⟨v, rest, ho, rfl⟩))
    · exact .inr (.inr (.inr (.inl ⟨v, rest, ho, rfl⟩)))
    · exact .inr (.inr (.inr (.inr (.inl ⟨v, rest, ho, hb, rfl⟩))))
    · exact .inr (.inr (.inr (.inr (.inr (.inl ⟨v, rest, ho, hb, rfl⟩)))))
    · exact .inr (.inr (.inr (.inr (.inr (.inr ⟨a, z, v, rest, ho, hb, he, hf, rfl⟩)))))
  · rw [h]; exact .inl ((s.busRead_quiet Offset.status .word rest).hostOps (.wait :: rest))
  · rw [h]; exact .inl (s.busRead_quiet Offset.status .word rest)

end Sys2Proof.Machine
end

