-- ==== Sys2Proof/Laws/Crc.lean ====
section
/-! SUPPORT. The small laws of the CRC and of the byte sum. -/

namespace Sys2Proof.Machine

@[simp] theorem crc16_nil (seed : Half) : crc16 seed [] = seed := rfl

@[simp] theorem crc16_cons (seed : Half) (b : Byte) (bs : List Byte) :
    crc16 seed (b :: bs) = crc16 (crcStep seed b) bs := rfl

theorem crcShifts_succ (k : Nat) (c : Half) : crcShifts (k + 1) c = crcShifts k (crcShift c) := rfl

theorem crcShift_of_even {c : Half} (h : c.getLsbD 0 = false) : crcShift c = c >>> 1 := by
  simp only [crcShift, h, Bool.false_eq_true, if_false]

theorem crcShift_of_odd {c : Half} (h : c.getLsbD 0 = true) : crcShift c = (c >>> 1) ^^^ 0xA001 := by
  simp only [crcShift, h, if_true]

/-- Shifting a value whose low `k` bits are zero never XORs the polynomial in. -/
theorem crcShifts_of_low_zero (k : Nat) (c : Half) (h : ∀ i, i < k → c.getLsbD i = false) :
    crcShifts k c = c >>> k := by
  induction k generalizing c with
  | zero => simp [crcShifts]
  | succ k ih =>
    rw [crcShifts_succ, crcShift_of_even (h 0 (Nat.succ_pos k)), ih]
    · apply BitVec.eq_of_getLsbD_eq
      intro i _
      simp [← Nat.add_assoc, Nat.add_comm]
    · intro i hi
      simpa [Nat.add_comm] using h (i + 1) (by omega)

@[simp] theorem sum8_nil (seed : Byte) : sum8 seed [] = seed := rfl

@[simp] theorem sum8_cons (seed b : Byte) (bs : List Byte) : sum8 seed (b :: bs) = sum8 (seed + b) bs := rfl

theorem sum8_append (seed : Byte) (as bs : List Byte) : sum8 seed (as ++ bs) = sum8 (sum8 seed as) bs := by
  simp [sum8, List.foldl_append]

/-- The seed can be added last. -/
theorem sum8_seed (seed : Byte) (bs : List Byte) : sum8 seed bs = seed + sum8 0 bs := by
  induction bs generalizing seed with
  | nil => simp
  | cons b bs ih =>
    rw [sum8_cons, sum8_cons, ih, ih (0 + b)]
    simp [BitVec.add_assoc]

end Sys2Proof.Machine
end

