-- ==== Sys2Proof/Laws/Commands.lean ====
section
/-! SUPPORT. What each shared stage of a command can do, said once: the outcomes of PARSE, and what every command leaves
alone. -/

namespace Sys2Proof.Machine

open Sys2Proof.Safety

/-- What PARSE can do, check by check (R83 to R91). -/
theorem State.parseWith_cases (minLen : Nat) (s : State) :
    (Config.bufCap < s.len.toNat ∧ s.parseWith minLen = s.reject .rangeError) ∨
    (s.len.toNat ≤ Config.bufCap ∧ s.len.toNat < minLen ∧ s.parseWith minLen = s.reject .truncatedFrame) ∨
    (s.len.toNat ≤ Config.bufCap ∧ minLen ≤ s.len.toNat ∧ s.parseWith minLen = s.parseStart) := by
  unfold State.parseWith
  by_cases h1 : Config.bufCap < s.len.toNat
  · exact .inl ⟨h1, by rw [if_pos h1]⟩
  · by_cases h2 : s.len.toNat < minLen
    · exact .inr (.inl ⟨by omega, h2, by rw [if_neg h1, if_pos h2]⟩)
    · exact .inr (.inr ⟨by omega, by omega, by rw [if_neg h1, if_neg h2]⟩)

/-- What is read from FB does not depend on the other fields. -/
theorem State.frameView_congr {s t : State} (h : s.fb = t.fb) (hp : s.powerOns = t.powerOns) :
    s.frameView = t.frameView := by
  simp only [State.frameView, State.fbByte_congr h hp, State.fbBytes_congr h hp]

/-- A command that ended: `finish` was its last action (R98). -/
structure Finished (t : State) : Prop where
  pending : t.pending = none
  busy : t.status.busy = false
  done : t.status.done = true

theorem State.finish_finished (code : ResultCode) (s : State) : Finished (s.finish code) := ⟨rfl, rfl, rfl⟩

theorem State.reject_finished (code : ResultCode) (s : State) : Finished (s.reject code) := ⟨rfl, rfl, rfl⟩

theorem State.accept_finished (s : State) : Finished s.accept := ⟨rfl, rfl, rfl⟩

/-- What a legal PARSE leaves, whatever its result (R83): it has finished, LEN, FB and the bystanders are as they were,
VALID says whether the result is OK, and without VALID the view is zero (R90, R91). -/
structure ParseLeaves (s t : State) : Prop where
  finished : Finished t
  same : SameBystanders s t
  len : t.len = s.len
  fb : t.fb = s.fb
  valid : t.status.valid = true ↔ t.status.result = .ok
  view : t.status.valid = false → t.view = View.zero

theorem State.reject_leaves {code : ResultCode} (h : code ≠ .ok) (s : State) : ParseLeaves s (s.reject code) where
  finished := s.reject_finished code
  same := ⟨rfl, rfl, rfl, rfl, rfl, rfl, rfl, rfl⟩
  len := rfl
  fb := rfl
  valid := by simpa using h
  view := fun _ => rfl

theorem State.accept_leaves (s : State) : ParseLeaves s s.accept where
  finished := s.accept_finished
  same := ⟨rfl, rfl, rfl, rfl, rfl, rfl, rfl, rfl⟩
  len := rfl
  fb := rfl
  valid := by simp
  view := by simp

/-- The same from an earlier state that differs in CRC, SUM and the record alone. -/
theorem ParseLeaves.of_eq {s u t : State} (h : ParseLeaves u t) (hs : SameBystanders s u) (hl : u.len = s.len)
    (hf : u.fb = s.fb) : ParseLeaves s t where
  finished := h.finished
  same := ⟨h.same.ie.trans hs.ie, h.same.ovr.trans hs.ovr, h.same.aerr.trans hs.aerr, h.same.serial.trans hs.serial,
    h.same.powerOns.trans hs.powerOns, h.same.hostOps.trans hs.hostOps, h.same.turns.trans hs.turns,
    h.same.rdata.trans hs.rdata⟩
  len := h.len.trans hl
  fb := h.fb.trans hf
  valid := h.valid
  view := h.view

theorem State.parseEnd_leaves (s : State) : ParseLeaves s s.parseEnd := by
  unfold State.parseEnd
  split
  · exact (State.accept_leaves _).of_eq ⟨rfl, rfl, rfl, rfl, rfl, rfl, rfl, rfl⟩ rfl rfl
  · exact (State.reject_leaves (by decide) _).of_eq ⟨rfl, rfl, rfl, rfl, rfl, rfl, rfl, rfl⟩ rfl rfl

theorem State.parseCrc_leaves (s : State) : ParseLeaves s s.parseCrc := by
  unfold State.parseCrc
  split
  · exact (State.parseEnd_leaves _).of_eq ⟨rfl, rfl, rfl, rfl, rfl, rfl, rfl, rfl⟩ rfl rfl
  · exact (State.reject_leaves (by decide) _).of_eq ⟨rfl, rfl, rfl, rfl, rfl, rfl, rfl, rfl⟩ rfl rfl

theorem State.parseSum_leaves (s : State) : ParseLeaves s s.parseSum := by
  unfold State.parseSum
  split
  · exact (State.parseCrc_leaves _).of_eq ⟨rfl, rfl, rfl, rfl, rfl, rfl, rfl, rfl⟩ rfl rfl
  · exact (State.reject_leaves (by decide) _).of_eq ⟨rfl, rfl, rfl, rfl, rfl, rfl, rfl, rfl⟩ rfl rfl

theorem State.parseStart_leaves (s : State) : ParseLeaves s s.parseStart := by
  unfold State.parseStart
  split
  · exact (State.parseSum_leaves _).of_eq ⟨rfl, rfl, rfl, rfl, rfl, rfl, rfl, rfl⟩ rfl rfl
  · exact (State.reject_leaves (by decide) _).of_eq ⟨rfl, rfl, rfl, rfl, rfl, rfl, rfl, rfl⟩ rfl rfl

theorem State.parseWith_leaves (minLen : Nat) (s : State) : ParseLeaves s (s.parseWith minLen) := by
  obtain ⟨_, h⟩ | ⟨_, _, h⟩ | ⟨_, _, h⟩ := s.parseWith_cases minLen
  · rw [h]; exact State.reject_leaves (by decide) _
  · rw [h]; exact State.reject_leaves (by decide) _
  · rw [h]; exact s.parseStart_leaves

@[simp] theorem crcBytes_length (c : Half) : (crcBytes c).length = 2 := rfl

@[simp] theorem requestBody_length (template : Nat → Byte) (serial : Word) :
    (requestBody template serial).length = 31 := by
  simp [requestBody, requestSubframe, wordBytes]

@[simp] theorem requestCovered_length (template : Nat → Byte) (serial : Word) :
    (requestCovered template serial).length = 33 := by
  simp [requestCovered]

/-- The request frame is exactly 36 bytes (R79). -/
@[simp] theorem requestFrame_length (template : Nat → Byte) (serial : Word) :
    (requestFrame template serial).length = 36 := by
  simp [requestFrame]

/-! What BUILD writes and leaves, one lemma a field. -/

@[simp] theorem State.buildWith_pending (template : Nat → Byte) (s : State) :
    (s.buildWith template).pending = none := by simp [State.buildWith]
@[simp] theorem State.buildWith_busy (template : Nat → Byte) (s : State) :
    (s.buildWith template).status.busy = false := by simp [State.buildWith]
@[simp] theorem State.buildWith_done (template : Nat → Byte) (s : State) :
    (s.buildWith template).status.done = true := by simp [State.buildWith]
@[simp] theorem State.buildWith_valid (template : Nat → Byte) (s : State) :
    (s.buildWith template).status.valid = s.status.valid := by simp [State.buildWith]
@[simp] theorem State.buildWith_ovr (template : Nat → Byte) (s : State) :
    (s.buildWith template).status.ovr = s.status.ovr := by simp [State.buildWith]
@[simp] theorem State.buildWith_aerr (template : Nat → Byte) (s : State) :
    (s.buildWith template).status.aerr = s.status.aerr := by simp [State.buildWith]
@[simp] theorem State.buildWith_result (template : Nat → Byte) (s : State) :
    (s.buildWith template).status.result = .ok := by simp [State.buildWith]
@[simp] theorem State.buildWith_ie (template : Nat → Byte) (s : State) :
    (s.buildWith template).ie = s.ie := by simp [State.buildWith]
@[simp] theorem State.buildWith_crc (template : Nat → Byte) (s : State) :
    (s.buildWith template).crc = requestCrc := by simp [State.buildWith]
@[simp] theorem State.buildWith_sum (template : Nat → Byte) (s : State) :
    (s.buildWith template).sum = requestSum template s.serial := by simp [State.buildWith]
@[simp] theorem State.buildWith_len (template : Nat → Byte) (s : State) :
    (s.buildWith template).len = 36 := by simp [State.buildWith]
@[simp] theorem State.buildWith_serial (template : Nat → Byte) (s : State) :
    (s.buildWith template).serial = s.serial := by simp [State.buildWith]
@[simp] theorem State.buildWith_view (template : Nat → Byte) (s : State) :
    (s.buildWith template).view = s.view := by simp [State.buildWith]
@[simp] theorem State.buildWith_fb (template : Nat → Byte) (s : State) :
    (s.buildWith template).fb = s.fb.writeBytes 0 (requestFrame template s.serial) := by simp [State.buildWith]
@[simp] theorem State.buildWith_powerOns (template : Nat → Byte) (s : State) :
    (s.buildWith template).powerOns = s.powerOns := by simp [State.buildWith]
@[simp] theorem State.buildWith_unwrittenRead (template : Nat → Byte) (s : State) :
    (s.buildWith template).unwrittenRead = s.unwrittenRead := by simp [State.buildWith]
@[simp] theorem State.buildWith_hostOps (template : Nat → Byte) (s : State) :
    (s.buildWith template).hostOps = s.hostOps := by simp [State.buildWith]
@[simp] theorem State.buildWith_turns (template : Nat → Byte) (s : State) :
    (s.buildWith template).turns = s.turns := by simp [State.buildWith]
@[simp] theorem State.buildWith_rdata (template : Nat → Byte) (s : State) :
    (s.buildWith template).rdata = s.rdata := by simp [State.buildWith]

theorem State.buildWith_same (template : Nat → Byte) (s : State) : SameBystanders s (s.buildWith template) := by
  constructor <;> simp

/-- FB[0..35] after BUILD holds the request frame. -/
theorem State.buildWith_lookup (template : Nat → Byte) (s : State) {k : Nat} (h : k < 36) :
    (s.buildWith template).fb.lookup k = some ((requestFrame template s.serial)[k]'(by simpa using h)) := by
  have := Memory.lookup_writeBytes_inside s.fb 0 (requestFrame template s.serial) (k := k) (by simpa using h)
  simpa using this

theorem State.buildWith_fbByte (template : Nat → Byte) (s : State) {k : Nat} (h : k < 36) :
    (s.buildWith template).fbByte k = (requestFrame template s.serial)[k]'(by simpa using h) := by
  unfold State.fbByte
  rw [State.buildWith_lookup template s h, Option.getD_some]

/-- FB[36..511] is as it was before BUILD. -/
theorem State.buildWith_lookup_beyond (template : Nat → Byte) (s : State) {k : Nat} (h : 36 ≤ k) :
    (s.buildWith template).fb.lookup k = s.fb.lookup k := by
  rw [State.buildWith_fb]
  exact Memory.lookup_writeBytes_outside _ _ _ (.inr (by simpa using h))

/-- The request's CRC, the same for every serial number and template (R79). -/
theorem requestCrc_eq : requestCrc = 0x14B4 := by decide +kernel

end Sys2Proof.Machine
end

