-- ==== Sys2Proof/Laws/Decode.lean ====
section
/-! SUPPORT. The opcode map as facts about numbers: which words have a row's fixed bits, and what the fields of a word
are. -/

namespace Sys2Proof

/-- Masking the low `k` bits away is shifting them out and back. -/
theorem and_high_ones {n : Nat} (w : BitVec n) (k : Nat) : w &&& (BitVec.allOnes n <<< k) = (w >>> k) <<< k := by
  apply BitVec.eq_of_getLsbD_eq
  intro i hi
  by_cases h : i < k
  · simp [h]
  · have hik : k + (i - k) = i := by omega
    simp [h, hi, hik]

/-- A masked comparison that fixes the bits from `k` up is a division. -/
theorem and_high_mask_eq_iff (w p m : Word) (k : Nat) (hm : m = BitVec.allOnes 32 <<< k) (hp : p.toNat % 2 ^ k = 0) :
    (w &&& m = p) ↔ w.toNat / 2 ^ k = p.toNat / 2 ^ k := by
  have hand : (w &&& m) = (w >>> k) <<< k := by rw [hm, and_high_ones]
  have hpk : p.toNat = p.toNat / 2 ^ k * 2 ^ k := by
    have := Nat.div_add_mod p.toNat (2 ^ k)
    rw [hp, Nat.add_zero, Nat.mul_comm] at this
    exact this.symm
  have hw : ((w >>> k) <<< k).toNat = w.toNat / 2 ^ k * 2 ^ k := by
    have hle : w.toNat / 2 ^ k * 2 ^ k ≤ w.toNat := Nat.div_mul_le_self _ _
    simp only [BitVec.toNat_shiftLeft, BitVec.toNat_ushiftRight, Nat.shiftLeft_eq, Nat.shiftRight_eq_div_pow]
    exact Nat.mod_eq_of_lt (by have := w.isLt; omega)
  rw [hand]
  constructor
  · intro h
    have h' := congrArg BitVec.toNat h
    rw [hw] at h'
    have h2 := congrArg (· / 2 ^ k) h'
    simpa [Nat.mul_div_cancel _ (Nat.two_pow_pos k)] using h2
  · intro h
    apply BitVec.eq_of_toNat_eq
    rw [hw, h, ← hpk]

theorem opField_toNat (w : Word) : (opField w).toNat = w.toNat / 16777216 := by
  have := w.isLt
  simp only [opField, BitVec.extractLsb'_toNat, Nat.shiftRight_eq_div_pow]
  omega

theorem imm16Field_toNat (w : Word) : (imm16Field w).toNat = w.toNat % 65536 := by
  simp [imm16Field, BitVec.extractLsb'_toNat]

theorem imm8Field_toNat (w : Word) : (imm8Field w).toNat = w.toNat % 256 := by
  simp [imm8Field, BitVec.extractLsb'_toNat]

theorem startField_eq (w : Word) : startField w = w.toNat / 4096 % 4096 := by
  simp [startField, BitVec.extractLsb'_toNat, Nat.shiftRight_eq_div_pow]

theorem countField_eq (w : Word) : countField w = w.toNat % 4096 := by
  simp [countField, BitVec.extractLsb'_toNat]

theorem startField_le (w : Word) : startField w ≤ 4095 := by rw [startField_eq]; omega

theorem countField_le (w : Word) : countField w ≤ 4095 := by rw [countField_eq]; omega

/-- How many low bits a format leaves to operands. -/
def Format.operandWidth : Format → Nat
  | .i16 => 16
  | .i8 => 8
  | .rng => 24
  | .none => 0

/-- A word has its row's fixed bits exactly when its bits from the operand width up are those of the row. -/
theorem Opcode.fits_iff (op : Opcode) (w : Word) :
    op.fits w = true ↔ w.toNat / 2 ^ op.format.operandWidth = op.pattern.toNat / 2 ^ op.format.operandWidth := by
  rw [Opcode.fits, beq_iff_eq]
  apply and_high_mask_eq_iff
  · cases op <;> decide
  · cases op <;> decide

/-- Every defined opcode is found by its code. -/
theorem Opcode.ofCode_code (op : Opcode) : Opcode.ofCode op.code = some op := by cases op <;> rfl

/-- Only the code of an opcode finds it. -/
theorem Opcode.ofCode_eq_some {b : Byte} {op : Opcode} (h : Opcode.ofCode b = some op) : b = op.code := by
  unfold Opcode.ofCode at h
  split at h <;> first
    | (cases h; apply BitVec.eq_of_toNat_eq; assumption)
    | exact absurd h (by simp)

/-- What a decoded word says: its opcode is a defined one, its fixed bits are its row's, and the command is read from it. -/
theorem decode_eq_ok_iff (w : Word) (i : Instr) :
    decode w = .ok i ↔ ∃ op, Opcode.ofCode (opField w) = some op ∧ op.fits w = true ∧ op.instr w = i := by
  unfold decode
  split
  · next h => simp [h]
  · next op h =>
    rw [h]
    split
    · next hf => simp [hf]
    · next hf =>
      constructor
      · intro h'; cases h'
      · rintro ⟨op', h1, h2, _⟩
        cases h1
        exact absurd h2 hf

end Sys2Proof
end

