-- ==== Sys2Proof/Laws/PerInstr.lean ====
section
/-! SUPPORT. Facts about every command as syntax, one lemma a constructor: the code of the opcode a command is written with
finds that opcode and no other (spec/30_encoding.md R60). -/

namespace Sys2Proof.Laws.OpcodeFound

/-- The code of the command's opcode finds that opcode and no other. -/
def Statement (i : Instr) : Prop := ∀ b : Byte, Opcode.ofCode b = some i.opcode ↔ b = i.opcode.code

theorem any (i : Instr) : Statement i := fun _ =>
  ⟨Opcode.ofCode_eq_some, fun h => h ▸ Opcode.ofCode_code i.opcode⟩

theorem crcSeed (imm16 : Half) : Statement (.crcSeed imm16) := any _
theorem crcByte (imm8 : Byte) : Statement (.crcByte imm8) := any _
theorem crcRange (start count : Nat) : Statement (.crcRange start count) := any _
theorem sumSeed (imm8 : Byte) : Statement (.sumSeed imm8) := any _
theorem sumByte (imm8 : Byte) : Statement (.sumByte imm8) := any _
theorem sumRange (start count : Nat) : Statement (.sumRange start count) := any _
theorem build : Statement .build := any _
theorem parse : Statement .parse := any _

end Sys2Proof.Laws.OpcodeFound
end

