-- ==== Sys2Proof/Laws/Step.lean ====
section
/-! SUPPORT. What a step can do, said once. -/

namespace Sys2Proof.Machine

/-- Every command ends in a next state. -/
theorem exec_next (i : Instr) (s : State) : ∃ t, exec i s = .next t := by
  cases i <;> exact ⟨_, rfl⟩

/-- What the engine step can do (R58, R62 to R64). -/
theorem engineStep_cases {s : State} {w : Word} (h : s.pending = some w) :
    (∃ i, decode w = .ok i ∧ engineStep s = exec i s) ∨
    (∃ e, decode w = .error e ∧ engineStep s = .next s.illegal) := by
  unfold engineStep
  rw [h]
  cases hd : decode w with
  | ok i => exact .inl ⟨i, rfl, by simp [hd]⟩
  | error e => exact .inr ⟨e, rfl, by simp [hd]⟩

/-- What a step can do (R14): the host's turn, the engine's, a turn that passes, a reset or a power-on, each from the state
with its turn taken off the list. -/
theorem step_cases (s : State) :
    (step s = .next (State.hostStep { s with turns := s.turns.tail }) ∧
      (s.turns.head? = some .host ∨ (s.turns = [] ∧ s.status.busy = false))) ∨
    (step s = engineStep { s with turns := s.turns.tail } ∧ s.status.busy = true ∧
      (s.turns.head? = some .engine ∨ s.turns = [])) ∨
    (step s = .next { s with turns := s.turns.tail } ∧ s.turns.head? = some .engine ∧ s.status.busy = false) ∨
    (step s = .next (State.resetEvent { s with turns := s.turns.tail }) ∧ s.turns.head? = some .rst) ∨
    (step s = .next (State.powerOnEvent { s with turns := s.turns.tail }) ∧ s.turns.head? = some .powerOn) := by
  have hs : ∀ {u : List Turn}, s.turns = u → { s with turns := u } = s := by intro u hu; subst hu; rfl
  simp only [step, machineStep]
  cases ht : s.turns with
  | nil =>
    cases hb : s.status.busy with
    | true =>
      refine .inr (.inl ⟨?_, rfl, .inr rfl⟩)
      simp [defaultTurn, takeTurn, engineTurn, hb, hs ht]
    | false =>
      refine .inl ⟨?_, .inr ⟨rfl, rfl⟩⟩
      simp [defaultTurn, takeTurn, hb, hs ht]
  | cons t rest =>
    cases t with
    | host => exact .inl ⟨rfl, .inl rfl⟩
    | rst => exact .inr (.inr (.inr (.inl ⟨rfl, rfl⟩)))
    | powerOn => exact .inr (.inr (.inr (.inr ⟨rfl, rfl⟩)))
    | engine =>
      cases hb : s.status.busy with
      | true => exact .inr (.inl ⟨by simp [takeTurn, engineTurn, hb], rfl, .inl rfl⟩)
      | false => exact .inr (.inr (.inl ⟨by simp [takeTurn, engineTurn, hb], rfl, rfl⟩))

end Sys2Proof.Machine
end

