-- ==== Sys2Proof/Tests/Slice0.lean ====
section
/-! SUPPORT. Tests with expected values from spec/95_test_vectors.md (the vector named at each test) and from the encodings
of spec/30_encoding.md, and a named witness for the hypotheses of every statement that has some. -/

open Sys2Proof Sys2Proof.Machine Sys2Proof.Safety

namespace Sys2Proof.Tests

/-! Helpers. -/

/-- The next state of a step, if there is one. -/
def nextState : Host.Outcome State Fault Refusal → Option State
  | .next s => some s
  | .fault _ => none
  | .refused _ => none

/-- The reset state with a command word latched. -/
def latched (w : Word) : State := State.reset.latch w

/-- The reset state with bytes written from FB[0] and LEN set. -/
def loaded (bs : List Byte) (len : Nat) : State :=
  { State.reset with fb := Memory.writeBytes [] 0 bs, len := BitVec.ofNat 16 len }

/-- The reset state with accesses of the host listed. -/
def hosted (ops : List HostOp) : State := { State.reset with hostOps := ops }

/-- F4 of spec/95_test_vectors.md section 2.4. -/
def frameF4 : List Byte :=
  [0xA5, 0x13, 0x00, 0x00, 0x00, 0x00, 0x00, 0xD4, 0xC3, 0xB2, 0xA1, 0x00, 0x00, 0xA0, 0x86, 0x01, 0x00, 0x10, 0x0E, 0x00,
    0x00, 0x00, 0x00, 0x00, 0x00, 0x01, 0x03, 0x04, 0x00, 0x02, 0x09, 0x64, 0x5C, 0x48, 0x5D, 0x15]

/-- PARSE of F4 with one byte changed, MIN_LEN = 32. -/
def parsedF4 (i : Nat) (b : Byte) : State := (loaded (frameF4.set i b) 36).parseWith 32

/-! WellFormed: an ill-formed term for each check, which the check refuses. -/

theorem test_crc_range_start_too_large : (Instr.crcRange 4096 0).wellFormed = false := by decide
theorem test_crc_range_count_too_large : (Instr.crcRange 0 4096).wellFormed = false := by decide
theorem test_sum_range_start_too_large : (Instr.sumRange 4096 0).wellFormed = false := by decide
theorem test_sum_range_count_too_large : (Instr.sumRange 0 4096).wellFormed = false := by decide

/-! Decoding: a word of each constructor, from R59 and R60 (opcode in 31:24, then the format's fields). -/

theorem test_decode_crc_seed : decodeTableWord 32 0b00000001000000000001001000110100 = some (.crcSeed 0x1234) := by decide
theorem test_decode_crc_byte : decodeTableWord 32 0b00000010000000000000000010101011 = some (.crcByte 0xAB) := by decide
theorem test_decode_crc_range : decodeTableWord 32 0b00000011000111110100000000001100 = some (.crcRange 500 12) := by
  decide
theorem test_decode_sum_seed : decodeTableWord 32 0b00000100000000000000000010000000 = some (.sumSeed 0x80) := by decide
theorem test_decode_sum_byte : decodeTableWord 32 0b00000101000000000000000000110100 = some (.sumByte 0x34) := by decide
theorem test_decode_sum_range : decodeTableWord 32 0b00000110000000000001000000100001 = some (.sumRange 1 33) := by decide
theorem test_decode_build : decodeTableWord 32 0b00000111000000000000000000000000 = some .build := by decide
theorem test_decode_parse : decodeTableWord 32 0b00001000000000000000000000000000 = some .parse := by decide
theorem test_decode_refuses :
    ([0x00000000, 0x09000000, 0xFFFFFFFF, 0x01010000, 0x02000100, 0x04000100, 0x05000100, 0x07000100, 0x08000001].all
      fun w => (decodeTableWord 32 w).isNone) = true := by decide
/-- Words of P2 in spec/95_test_vectors.md part 3. -/
theorem test_encode_words :
    encode (.crcRange 26 8) = 0x0301A008 ∧ encode (.sumRange 1 33) = 0x06001021 ∧ encode crcInit = 0x0100FFFF ∧
      encode sumClear = 0x04000000 := by decide

/-! Commands. -/

/-- V-C17. -/
theorem test_crc_seed :
    (nextState (exec (.crcSeed 0xFFFF) { State.reset with crc := 0x1234 })).map (fun t => (t.crc, t.status.result)) =
      some (0xFFFF, .ok) := by decide
/-- V-C3. -/
theorem test_crc_byte :
    (nextState (exec (.crcByte 0x01) State.reset)).map (fun t => (t.crc, t.statusWord)) = some (0x807E, 0x00000002) := by
  decide +kernel
/-- V-C10. -/
theorem test_crc_range :
    (nextState (exec (.crcRange 0 6) (loaded [0x01, 0x03, 0x00, 0x3B, 0x00, 0x3A] 0))).map (fun t => t.crc) =
      some 0x14B4 := by decide +kernel
/-- V-C14. -/
theorem test_crc_range_error :
    (nextState (exec (.crcRange 4095 4095) State.reset)).map (fun t => (t.crc, t.statusWord, t.unwrittenRead)) =
      some (0xFFFF, 0x00000702, false) := by decide +kernel
/-- V-S3. -/
theorem test_sum_seed :
    (nextState (exec (.sumSeed 0x80) State.reset)).map (fun t => (t.sum, t.statusWord)) = some (0x80, 0x00000002) := by
  decide +kernel
/-- V-S2: the wrap. -/
theorem test_sum_byte :
    (nextState (exec (.sumByte 0x01) { State.reset with sum := 0xFF })).map (fun t => t.sum) = some 0x00 := by decide
/-- V-S6, the last byte of FB. -/
theorem test_sum_range :
    (nextState (exec (.sumRange 511 1) { State.reset with fb := [(511, 0x10)] })).map (fun t => t.sum) = some 0x10 := by
  decide +kernel
/-- V-S7. -/
theorem test_sum_range_error :
    (nextState (exec (.sumRange 511 2) { State.reset with sum := 0x10 })).map (fun t => (t.sum, t.statusWord)) =
      some (0x10, 0x00000702) := by decide +kernel
/-- V-B1, with the template T0. -/
theorem test_build :
    let t := State.buildWith (fun _ => 0) { State.reset with serial := 0x12345678 }
    t.fbBytes 0 36 =
      [0xA5, 0x00, 0x00, 0x00, 0x00, 0x00, 0x00, 0x78, 0x56, 0x34, 0x12, 0x00, 0x00, 0x00, 0x00, 0x00, 0x00, 0x00, 0x00,
        0x00, 0x00, 0x00, 0x00, 0x00, 0x00, 0x00, 0x01, 0x03, 0x00, 0x3B, 0x00, 0x3A, 0xB4, 0x14, 0x55, 0x15] ∧
      t.len = 36 ∧ t.crc = 0x14B4 ∧ t.sum = 0x55 ∧ t.statusWord = 0x00000002 := by decide +kernel
/-- V-P13: PARSE of it. -/
theorem test_parse_of_build :
    let t := (State.buildWith (fun _ => 0) { State.reset with serial := 0x12345678 }).parseWith 32
    t.status.result = .crcMismatch ∧ t.crc = 0x0B4F ∧ t.sum = 0x55 := by decide +kernel
/-- V-P2. -/
theorem test_parse_accepts :
    let t := parsedF4 0 0xA5
    t.statusWord = 0x00000006 ∧ t.crc = 0x0000 ∧ t.sum = 0x5D ∧ t.view.word0 = 0x00040301 ∧ t.view.declen = 0x0013 ∧
      t.view.respSn = 0xA1B2C3D4 ∧ t.view.respTot = 0x000186A0 ∧ t.view.respDay = 0x00000E10 := by decide +kernel
/-- V-P3 to V-P10 and V-P12: the rejects, in the order of the checks. -/
theorem test_parse_rejects :
    ((loaded frameF4 600).parseWith 32).statusWord = 0x00000702 ∧
      ((loaded frameF4 36).parseWith 148).statusWord = 0x00000102 ∧
      ((loaded frameF4 31).parseWith 32).statusWord = 0x00000102 ∧
      (parsedF4 0 0xA4).statusWord = 0x00000202 ∧
      ((parsedF4 10 0xA0).statusWord, (parsedF4 10 0xA0).sum, (parsedF4 10 0xA0).crc) = (0x00000302, 0x5C, 0xFFFF) ∧
      (parsedF4 34 0x5C).status.result = .checksumMismatch ∧
      ((parsedF4 35 0x16).statusWord, (parsedF4 35 0x16).sum, (parsedF4 35 0x16).crc) = (0x00000502, 0x5D, 0x0000) ∧
      (let t := (loaded ((frameF4.set 29 0x03).set 34 0x5E) 36).parseWith 32
       (t.statusWord, t.sum, t.crc) = (0x00000402, 0x5E, 0xC03D)) := by decide +kernel

/-! The step, placed words, and the bus. -/

/-- V-C15: a placed word whose reserved bit 16 is set is IllegalCommand. -/
theorem test_step_illegal :
    (nextState (step (State.reset.withFetchWord 32 0x01010000))).map (fun t => (t.statusWord, t.crc)) =
      some (0x00000602, 0xFFFF) := by decide +kernel
/-- V-C6, its second command, as the first step of a placed word. -/
theorem test_step_runs_placed_word :
    (nextState (step (State.withFetchWord { State.reset with crc := 0x1234 } 32 0x020000AB))).map (fun t => t.crc) =
      some 0x6852 := by decide +kernel
/-- V-E5: a reset before the engine step. -/
theorem test_reset_discards_command :
    nextState (step { latched 0x02000001 with turns := [.rst] }) = some State.reset := by decide +kernel
/-- V-M1. -/
theorem test_fb_little_endian :
    let s := State.busWrite (Offset.fb 4) .word 0x44332211 State.reset
    s.fbBytes 4 4 = [0x11, 0x22, 0x33, 0x44] ∧ (s.busRead (Offset.fb 6) .half).rdata = some 0x00004433 ∧
      (s.busRead (Offset.fb 5) .byte).rdata = some 0x00000022 := by decide +kernel
/-- V-M2, V-M4, V-M6, V-M7, V-M8: reads that are access errors. -/
theorem test_read_errors :
    ([(0x201, .half), (0x000, .word), (0x004, .byte), (0x034, .word), (0x200, .reserved)].all fun (a, z) =>
      let t := State.reset.busRead a z
      t.rdata == some 0 && t.statusWord == 0x00000010) = true := by decide +kernel
/-- V-M3, V-M5, V-M7: writes that are access errors. -/
theorem test_write_errors :
    ([(0x00C, .word, 0x1234), (0x000, .half, 0x0100), (0x400, .word, 1)].all fun (a, z, v) =>
      decide (State.reset.busWrite a z v = State.reset.setAerr)) = true := by decide +kernel
/-- V-M9. -/
theorem test_len_drops_high_bits :
    ((State.busWrite Offset.len .word 0x00010024 State.reset).busRead Offset.len .word).rdata = some 0x00000024 := by
  decide +kernel
/-- V-M11: the access error is checked before BUSY. -/
theorem test_access_error_before_busy :
    (State.busWrite Offset.crc .word 5 (latched 0x02000001)).statusWord = 0x00000011 := by decide +kernel
/-- V-E1: overruns are refused, and the first command runs. -/
theorem test_overrun :
    let s := State.busWrite Offset.len .word 5 (State.busWrite Offset.cmd .word 0x02000002 (latched 0x02000001))
    s.statusWord = 0x00000009 ∧
      (nextState (engineStep s)).map (fun t => (t.statusWord, t.crc, t.len)) = some (0x0000000A, 0x807E, 0) := by
  decide +kernel
/-- V-E2 and V-E3. -/
theorem test_irq :
    let s := State.busWrite Offset.ctrl .word 1 State.reset
    (nextState (exec (.crcSeed 0) s)).map (fun t => (t.irq, (t.busWrite Offset.status .word 2).irq)) =
      some (true, false) ∧
      (nextState (exec (.crcSeed 0) State.reset)).map (fun t => (t.irq, (t.busWrite Offset.ctrl .word 1).irq)) =
        some (false, true) := by decide +kernel
/-- V-U1: PARSE of a frame buffer that was never written goes on the record. -/
theorem test_unwritten_read :
    ((State.parseWith 32 { State.reset with len := 36 }).unwrittenRead) = true := by
  unfold State.parseWith
  rw [if_neg (by decide), if_neg (by decide)]
  unfold State.parseStart
  split
  · unfold State.parseSum State.parseCrc State.parseEnd
    repeat' split
    all_goals rfl
  · rfl
/-- R66's syntax, on words of spec/95_test_vectors.md. -/
theorem test_assembler :
    assembleWord "CRC_RANGE 500, 13".toList = some 0x031F400D ∧ assembleWord "SUM_BYTE 0xFF".toList = some 0x050000FF ∧
      assembleWord "BUILD ; comment".toList = some 0x07000000 ∧ assembleWord "CRC_BYTE 256".toList = none ∧
      assembleWord "CRC_RANGE 1".toList = none := by decide +kernel

/-! A frame long enough for every MIN_LEN. -/

/-- Bytes 0..29 of a frame with N = 0 and the CRC bytes `crcLow`, 0xF0 (R82). -/
def head (crcLow : Byte) : List Byte := 0xA5 :: (List.replicate 24 0 ++ [0x01, 0x03, 0x00, crcLow, 0xF0])

/-- A frame of `32 + n` bytes, all written, with PARSE latched. At `n = 480` it is long enough for every MIN_LEN. -/
def longFrame (n : Nat) (crcLow sum last : Byte) : State :=
  { State.reset with
    pending := some 0x08000000
    status := { Status.zero with busy := true }
    len := BitVec.ofNat 16 (32 + n)
    fb := ((Memory.writeBytes [] 30 (List.replicate n 0)).writeBytes 0 (head crcLow)).writeBytes (30 + n) [sum, last] }

@[simp] theorem head_length (crcLow : Byte) : (head crcLow).length = 30 := rfl

theorem longFrame_byte_low (n : Nat) (crcLow sum last : Byte) {i : Nat} (h : i < 30) :
    (longFrame n crcLow sum last).fbByte i = (head crcLow).getD i 0 := by
  have := Memory.lookup_writeBytes_inside (Memory.writeBytes [] 30 (List.replicate n 0)) 0 (head crcLow) (k := i) h
  rw [Nat.zero_add] at this
  unfold State.fbByte longFrame
  rw [Memory.lookup_writeBytes_outside _ _ _ (by omega), this]
  simp only [Option.getD_some, List.getD_eq_getElem?_getD]
  rw [List.getElem?_eq_getElem (by simpa using h), Option.getD_some]
  rfl

theorem longFrame_byte_middle (n : Nat) (crcLow sum last : Byte) {k : Nat} (h : k < n) :
    (longFrame n crcLow sum last).fbByte (30 + k) = 0 := by
  have := Memory.lookup_writeBytes_inside [] 30 (List.replicate n 0) (k := k) (by simpa using h)
  unfold State.fbByte longFrame
  rw [Memory.lookup_writeBytes_outside _ _ _ (by omega),
    Memory.lookup_writeBytes_outside _ _ _ (.inr (by rw [head_length]; omega)), this]
  simp

theorem longFrame_byte_sum (n : Nat) (crcLow sum last : Byte) : (longFrame n crcLow sum last).fbByte (30 + n) = sum := by
  have := Memory.lookup_writeBytes_inside ((Memory.writeBytes [] 30 (List.replicate n 0)).writeBytes 0 (head crcLow))
    (30 + n) [sum, last] (k := 0) (by simp)
  rw [Nat.add_zero] at this
  unfold State.fbByte longFrame
  rw [this]
  rfl

theorem longFrame_byte_last (n : Nat) (crcLow sum last : Byte) :
    (longFrame n crcLow sum last).fbByte (31 + n) = last := by
  have := Memory.lookup_writeBytes_inside ((Memory.writeBytes [] 30 (List.replicate n 0)).writeBytes 0 (head crcLow))
    (30 + n) [sum, last] (k := 1) (by simp)
  rw [show 30 + n + 1 = 31 + n by omega] at this
  unfold State.fbByte longFrame
  rw [this]
  rfl

/-- The sum of R87: the 29 bytes of the head after the start marker, and zeros. -/
theorem longFrame_sum (n : Nat) (crcLow sum last : Byte) :
    sum8 0 ((List.range' 1 (29 + n)).map (longFrame n crcLow sum last).fbByte) = sum8 0 ((head crcLow).drop 1) := by
  have hlow : (List.range' 1 29).map (longFrame n crcLow sum last).fbByte = (head crcLow).drop 1 := by
    rw [List.map_congr_left (g := fun i => (head crcLow).getD i 0)]
    · rfl
    · intro i hi
      rw [List.mem_range'_1] at hi
      exact longFrame_byte_low n _ _ _ (by omega)
  have hzero : ∀ (m : Nat) (x : Byte), List.foldl (fun acc b => acc + b) x (List.replicate m (0 : Byte)) = x := by
    intro m x
    induction m with
    | zero => rfl
    | succ m ih => rw [List.replicate_succ, List.foldl_cons, show x + 0 = x from BitVec.add_zero x, ih]
  have hhigh : (List.range' 30 n).map (longFrame n crcLow sum last).fbByte = List.replicate n 0 := by
    rw [List.map_congr_left (g := fun _ => 0)]
    · simp
    · intro i hi
      rw [List.mem_range'_1] at hi
      obtain ⟨k, rfl⟩ : ∃ k, i = 30 + k := ⟨i - 30, by omega⟩
      exact longFrame_byte_middle n _ _ _ (by omega)
  rw [← List.range'_append_1, List.map_append, hlow, show 1 + 29 = 30 from rfl, hhigh]
  unfold sum8
  rw [List.foldl_append, hzero]

/-- The residue of R88. -/
theorem longFrame_residue (n : Nat) (crcLow sum last : Byte) :
    crc16 0xFFFF ((List.range' 25 (5 + ((longFrame n crcLow sum last).fbByte 27).toNat)).map
      (longFrame n crcLow sum last).fbByte) = crc16 0xFFFF [0x01, 0x03, 0x00, crcLow, 0xF0] := by
  rw [longFrame_byte_low n _ _ _ (by omega)]
  rw [List.map_congr_left (g := fun i => (head crcLow).getD i 0)]
  · rfl
  · intro i hi
    rw [List.mem_range'_1] at hi
    have : i < 30 := hi.2
    exact longFrame_byte_low n _ _ _ this
/-! Witnesses: for every statement with hypotheses, states and operands that meet them together, a witness for each clause
at a boundary of its range. -/

theorem witness_DecodeOfEncode :
    ([.crcSeed 0, .crcSeed 0xFFFF, .crcByte 0xFF, .crcRange 0 0, .crcRange 4095 4095, .sumSeed 0xFF, .sumByte 0xFF,
      .sumRange 4095 4095, .build, .parse] : List Instr).all (fun i => i.wellFormed) = true := by decide

theorem witness_EncodeOfDecode :
    decode 0x0100FFFF = .ok (.crcSeed 0xFFFF) ∧ decode 0x03FFFFFF = .ok (.crcRange 4095 4095) ∧
      decode 0x08000000 = .ok .parse := ⟨rfl, rfl, rfl⟩

theorem witness_OpcodeMapByMaskAndMatch :
    (latched 0x09000000).pending = some 0x09000000 ∧ decode 0x09000000 = .error .reservedOpcode ∧
      (latched 0x01010000).pending = some 0x01010000 ∧ decode 0x01010000 = .error .reservedBits := ⟨rfl, rfl, rfl, rfl⟩

theorem witness_OperandsAreTheirBitRanges :
    decode 0x0100FFFF = .ok (.crcSeed 0xFFFF) ∧ decode 0x020000FF = .ok (.crcByte 0xFF) ∧
      decode 0x04000000 = .ok (.sumSeed 0) ∧ decode 0x050000FF = .ok (.sumByte 0xFF) ∧
      decode 0x03FFFFFF = .ok (.crcRange 4095 4095) ∧ decode 0x06000000 = .ok (.sumRange 0 0) :=
  ⟨rfl, rfl, rfl, rfl, rfl, rfl⟩

theorem witness_ReservedBitsFinishIllegal :
    (∀ w, (latched w).pending = some w) ∧
      ((0x01010000 : Word).extractLsb' 24 8 = 0x01 ∧ (0x01010000 : Word).extractLsb' 16 8 ≠ 0) ∧
      ((0x02000100 : Word).extractLsb' 24 8 = 0x02 ∧ (0x02000100 : Word).extractLsb' 8 16 ≠ 0) ∧
      ((0x04800000 : Word).extractLsb' 24 8 = 0x04 ∧ (0x04800000 : Word).extractLsb' 8 16 ≠ 0) ∧
      ((0x05000100 : Word).extractLsb' 24 8 = 0x05 ∧ (0x05000100 : Word).extractLsb' 8 16 ≠ 0) ∧
      ((0x07000001 : Word).extractLsb' 24 8 = 0x07 ∧ (0x07000001 : Word).extractLsb' 0 24 ≠ 0) ∧
      ((0x08800000 : Word).extractLsb' 24 8 = 0x08 ∧ (0x08800000 : Word).extractLsb' 0 24 ≠ 0) :=
  ⟨fun _ => rfl, by decide⟩

theorem witness_ReservedOpcodesFinishIllegal :
    (∀ w, (latched w).pending = some w) ∧ (0x00FFFFFF : Word).extractLsb' 24 8 = 0x00 ∧
      0x09 ≤ ((0x09000000 : Word).extractLsb' 24 8).toNat ∧ 0x09 ≤ ((0xFFFFFFFF : Word).extractLsb' 24 8).toNat :=
  ⟨fun _ => rfl, by decide⟩

theorem witness_EngineFollowsDecodeOrder :
    (∀ w, (latched w).pending = some w) ∧ (∀ op : Opcode, (0x09000000 : Word).extractLsb' 24 8 ≠ op.code) ∧
      ((0x07000100 : Word).extractLsb' 24 8 = Opcode.build.code ∧ 0x07000100 &&& Opcode.build.mask ≠ Opcode.build.pattern) ∧
      ((0x03001200 : Word).extractLsb' 24 8 = Opcode.crcRange.code ∧
        0x03001200 &&& Opcode.crcRange.mask = Opcode.crcRange.pattern ∧
        512 < ((0x03001200 : Word).extractLsb' 12 12).toNat + ((0x03001200 : Word).extractLsb' 0 12).toNat) ∧
      ((0x06200001 : Word).extractLsb' 24 8 = Opcode.sumRange.code ∧
        0x06200001 &&& Opcode.sumRange.mask = Opcode.sumRange.pattern ∧
        512 < ((0x06200001 : Word).extractLsb' 12 12).toNat + ((0x06200001 : Word).extractLsb' 0 12).toNat) ∧
      ((0x01001234 : Word).extractLsb' 24 8 = Opcode.crcSeed.code ∧
        0x01001234 &&& Opcode.crcSeed.mask = Opcode.crcSeed.pattern) :=
  ⟨fun _ => rfl, fun op => by cases op <;> decide, by decide⟩

theorem witness_AssemblerChecksOperandFields :
    (Opcode.crcRange.assemble [4095, 4095]).isSome = true ∧ (Opcode.crcRange.assemble [4095, 4096]).isSome = false ∧
      (Opcode.sumRange.assemble [4096, 0]).isSome = false ∧ Opcode.build.assemble [] = some .build ∧
      (Instr.sumRange 4095 4095).wellFormed = true := by decide

theorem witness_StepRunsDecodedCommand :
    engineNext (latched 0x02000001) ∧ engineNext { latched 0x02000001 with turns := [.engine, .host] } ∧
      (latched 0x02000001).pending = some 0x02000001 ∧ decode 0x02000001 = .ok (.crcByte 1) :=
  ⟨⟨.inr rfl, rfl⟩, ⟨.inl rfl, rfl⟩, rfl, rfl⟩

theorem witness_TurnDecidesWhoSteps :
    engineNext (latched 0x02000001) ∧
      (({ State.reset with turns := [.engine] } : State).turns.head? = some .engine ∧ State.reset.status.busy = false) ∧
      (hostNext (hosted [.read 0x200 .byte]) ∧ (hosted [.read 0x200 .byte]).hostOps = .read 0x200 .byte :: []) ∧
      (hostNext { hosted [.write 0x000 .word 1] with turns := [.host] } ∧
        (hosted [.write 0x000 .word 1]).hostOps = .write 0x000 .word 1 :: []) ∧
      (hostNext State.reset ∧ State.reset.hostOps = []) ∧
      ({ State.reset with turns := [.rst] } : State).turns.head? = some .rst ∧
      ({ State.reset with turns := [.powerOn] } : State).turns.head? = some .powerOn :=
  ⟨⟨.inr rfl, rfl⟩, ⟨rfl, rfl⟩, ⟨.inr ⟨rfl, rfl⟩, rfl⟩, ⟨.inl rfl, rfl⟩, ⟨.inr ⟨rfl, rfl⟩, rfl⟩, rfl, rfl⟩

theorem witness_IdleMachineKeepsState :
    State.reset.turns = [] ∧ State.reset.hostOps = [] ∧ State.reset.status.busy = false := ⟨rfl, rfl, rfl⟩

theorem witness_WaitPollsUntilIdle :
    (hostNext (hosted [.wait]) ∧ (hosted [.wait]).hostOps = .wait :: [] ∧ (hosted [.wait]).status.busy = false) ∧
      (hostNext { latched 0x08000000 with hostOps := [.wait], turns := [.host] } ∧
        (latched 0x08000000).status.busy = true) := ⟨⟨.inr ⟨rfl, rfl⟩, rfl, rfl⟩, .inl rfl, rfl⟩

theorem witness_CmdWriteLatchesCommand : State.reset.status.busy = false := rfl

/-- The invariant holds of a state with a command latched. -/
theorem latched_inv (w : Word) : Inv (latched w) := ⟨rfl, rfl, fun h => by simp [latched] at h, fun _ => rfl⟩

theorem witness_BusyEndsWithinTurnsPlusOne :
    Inv (latched 0x07000000) ∧ (latched 0x07000000).status.busy = true := ⟨latched_inv _, rfl⟩

theorem witness_CrcSeedLoadsCrc :
    (∀ w, (latched w).pending = some w) ∧
      ((0x01001234 : Word).extractLsb' 24 8 = 0x01 ∧ (0x01001234 : Word).extractLsb' 16 8 = 0) ∧
      ((0x01010000 : Word).extractLsb' 24 8 = 0x01 ∧ (0x01010000 : Word).extractLsb' 16 8 ≠ 0) :=
  ⟨fun _ => rfl, by decide⟩

theorem witness_CrcByteFoldsOneByte :
    (∀ w, (latched w).pending = some w) ∧
      ((0x020000FF : Word).extractLsb' 24 8 = 0x02 ∧ (0x020000FF : Word).extractLsb' 8 16 = 0) ∧
      ((0x02000100 : Word).extractLsb' 24 8 = 0x02 ∧ (0x02000100 : Word).extractLsb' 8 16 ≠ 0) :=
  ⟨fun _ => rfl, by decide⟩

theorem witness_CrcRangeFoldsFrameBytes :
    512 + 0 ≤ 512 ∧ 500 + 12 ≤ 512 ∧ 512 < 500 + 13 ∧ 512 < 513 + 0 ∧
      (latched 0x031F400C).pending = some 0x031F400C ∧ (0x031F400C : Word).extractLsb' 24 8 = 0x03 := by decide

theorem witness_ByteSumIsModulo256 : [(0x01 : Byte), 0xFF].Perm [0xFF, 0x01] := .swap _ _ _

theorem witness_SumSeedLoadsSum :
    (∀ w, (latched w).pending = some w) ∧
      ((0x04000080 : Word).extractLsb' 24 8 = 0x04 ∧ (0x04000080 : Word).extractLsb' 8 16 = 0) ∧
      ((0x04000100 : Word).extractLsb' 24 8 = 0x04 ∧ (0x04000100 : Word).extractLsb' 8 16 ≠ 0) :=
  ⟨fun _ => rfl, by decide⟩

theorem witness_SumByteAddsModulo256 :
    (∀ w, (latched w).pending = some w) ∧
      ((0x050000FF : Word).extractLsb' 24 8 = 0x05 ∧ (0x050000FF : Word).extractLsb' 8 16 = 0) ∧
      ((0x05800000 : Word).extractLsb' 24 8 = 0x05 ∧ (0x05800000 : Word).extractLsb' 8 16 ≠ 0) :=
  ⟨fun _ => rfl, by decide⟩

theorem witness_SumRangeAddsFrameBytes :
    512 + 0 ≤ 512 ∧ 511 + 1 ≤ 512 ∧ 512 < 511 + 2 ∧
      (latched 0x061FF001).pending = some 0x061FF001 ∧ (0x061FF001 : Word).extractLsb' 24 8 = 0x06 ∧
      ({ State.reset with serial := 0x12345678 } : State).serial = 0x12345678 := by decide

theorem witness_BuildWritesRequestFrame :
    (∀ w, (latched w).pending = some w) ∧
      ((0x07000000 : Word).extractLsb' 24 8 = 0x07 ∧ (0x07000000 : Word).extractLsb' 0 24 = 0) ∧
      ((0x07000100 : Word).extractLsb' 24 8 = 0x07 ∧ (0x07000100 : Word).extractLsb' 0 24 ≠ 0) ∧
      ((1 ≤ 6 ∧ 6 ≤ 6) ∨ (11 ≤ 6 ∧ 6 ≤ 25)) ∧ ((1 ≤ 25 ∧ 25 ≤ 6) ∨ (11 ≤ 25 ∧ 25 ≤ 25)) ∧ 36 ≤ 511 ∧
      State.reset.serial = 0x00000000 ∧ ({ State.reset with serial := 0xFFFFFFFF } : State).serial = 0xFFFFFFFF :=
  ⟨fun _ => rfl, by decide⟩

theorem witness_BuildResultPropertiesAndParse :
    36 < 37 ∧ 36 ≤ 36 ∧ (fun _ => 0 : Nat → Byte) 25 = 0 := ⟨by decide, by decide, rfl⟩

/-- A frame of 512 bytes meets the size checks whatever MIN_LEN is, and one of 31 bytes fails check 1 whatever it is. -/
theorem minLen_range : 31 < Config.minLen ∧ Config.minLen ≤ 512 := by
  have := Config.minLenAbove.isLt
  unfold Config.minLen
  omega

theorem longFrame_markers (crcLow sum last : Byte) :
    (longFrame 480 crcLow sum last).len.toNat = 512 ∧ (longFrame 480 crcLow sum last).fbByte 0 = 0xA5 ∧
      (longFrame 480 crcLow sum last).fbByte (512 - 2) = sum ∧ (longFrame 480 crcLow sum last).fbByte (512 - 1) = last :=
  ⟨rfl, longFrame_byte_low 480 _ _ _ (by decide), longFrame_byte_sum 480 _ _ _, longFrame_byte_last 480 _ _ _⟩

theorem longFrame_sum_512 (crcLow sum last : Byte) :
    sum8 0 ((List.range' 1 (512 - 3)).map (longFrame 480 crcLow sum last).fbByte) = sum8 0 ((head crcLow).drop 1) :=
  longFrame_sum 480 crcLow sum last

/-- Each row of the table of R83: too long, too short, and at 512 bytes a wrong start marker, a wrong sum, a wrong residue, a
wrong end marker, and a frame that is accepted. -/
theorem witness_ParseReportsFirstFailingCheck :
    512 < (loaded [] 513).len.toNat ∧
      ((loaded [] 31).len.toNat ≤ 512 ∧ (loaded [] 31).len.toNat < Config.minLen) ∧
      ((loaded [0xA4] 512).len.toNat = 512 ∧ (loaded [0xA4] 512).fbByte 0 ≠ 0xA5) ∧
      (∀ crcLow sum last, (longFrame 480 crcLow sum last).len.toNat = 512 ∧
        (longFrame 480 crcLow sum last).fbByte 0 = 0xA5) ∧ Config.minLen ≤ 512 ∧
      (let s := longFrame 480 0x20 0x13 0x15
       sum8 0x00 ((List.range' 1 (512 - 3)).map s.fbByte) ≠ s.fbByte (512 - 2)) ∧
      (let s := longFrame 480 0x21 0x15 0x15
       sum8 0x00 ((List.range' 1 (512 - 3)).map s.fbByte) = s.fbByte (512 - 2) ∧
         crc16 0xFFFF ((List.range' 25 (5 + (s.fbByte 27).toNat)).map s.fbByte) ≠ 0x0000) ∧
      (let s := longFrame 480 0x20 0x14 0x16
       sum8 0x00 ((List.range' 1 (512 - 3)).map s.fbByte) = s.fbByte (512 - 2) ∧
         crc16 0xFFFF ((List.range' 25 (5 + (s.fbByte 27).toNat)).map s.fbByte) = 0x0000 ∧ s.fbByte (512 - 1) ≠ 0x15) ∧
      (let s := longFrame 480 0x20 0x14 0x15
       sum8 0x00 ((List.range' 1 (512 - 3)).map s.fbByte) = s.fbByte (512 - 2) ∧
         crc16 0xFFFF ((List.range' 25 (5 + (s.fbByte 27).toNat)).map s.fbByte) = 0x0000 ∧ s.fbByte (512 - 1) = 0x15) ∧
      ((latched 0x08000001).pending = some 0x08000001 ∧ (0x08000001 : Word).extractLsb' 24 8 = 0x08) := by
  refine ⟨by decide, ⟨by decide, minLen_range.1⟩, by decide, fun a b c => ⟨(longFrame_markers a b c).1,
    (longFrame_markers a b c).2.1⟩, minLen_range.2, ?_, ⟨?_, ?_⟩, ⟨?_, ?_, ?_⟩, ⟨?_, ?_, ?_⟩, by decide⟩
  · dsimp only
    rw [longFrame_sum_512, (longFrame_markers _ _ _).2.2.1]
    decide
  · rw [longFrame_sum_512, (longFrame_markers _ _ _).2.2.1]
    decide
  · rw [longFrame_residue]
    decide +kernel
  · rw [longFrame_sum_512, (longFrame_markers _ _ _).2.2.1]
    decide
  · rw [longFrame_residue]
    decide +kernel
  · rw [(longFrame_markers _ _ _).2.2.2]
    decide
  · rw [longFrame_sum_512, (longFrame_markers _ _ _).2.2.1]
    decide
  · rw [longFrame_residue]
    decide +kernel
  · exact (longFrame_markers _ _ _).2.2.2

/-- PARSE accepts the long frame, and its bytes 1 and L - 2 can be changed. -/
theorem witness_SingleByteMutationIsCaught :
    (∃ t, exec .parse (longFrame 480 0x20 0x14 0x15) = .next t ∧ t.status.result = .ok) ∧ 1 ≤ 1 ∧
      512 - 2 ≤ (longFrame 480 0x20 0x14 0x15).len.toNat - 2 ∧ 0x01 ≠ (longFrame 480 0x20 0x14 0x15).fbByte 1 ∧
      0x15 ≠ (longFrame 480 0x20 0x14 0x15).fbByte (512 - 2) := by
  obtain ⟨hlen, hstart, hsum, hend⟩ := longFrame_markers 0x20 0x14 0x15
  have hsum' := longFrame_sum_512 0x20 0x14 0x15
  have hres := longFrame_residue 480 0x20 0x14 0x15
  have hbyte := longFrame_byte_low 480 0x20 0x14 0x15 (i := 1) (by decide)
  generalize longFrame 480 0x20 0x14 0x15 = s at hlen hstart hsum hsum' hend hres hbyte ⊢
  refine ⟨⟨_, rfl, ?_⟩, by decide, by rw [hlen], by rw [hbyte]; decide, by rw [hsum]; decide⟩
  have hfit : ¬ Config.bufCap < s.len.toNat := by rw [hlen]; decide
  have hmin : ¬ s.len.toNat < Config.minLen := by rw [hlen]; exact Nat.not_lt.mpr minLen_range.2
  have hframe : s.frameSum = s.fbByte (s.len.toNat - 2) := by
    rw [State.frameSum, State.fbBytes, fbRange, hlen, hsum, hsum']
    decide
  have hresidue : ∀ u : State, u.fb = s.fb → u.powerOns = s.powerOns → u.frameResidue = 0 := by
    intro u hf hp
    rw [State.frameResidue, State.fbBytes_congr hf hp, State.fbByte_congr hf hp, State.fbBytes, fbRange]
    exact hres.trans (by decide +kernel)
  rw [← hlen] at hend
  unfold State.parseWith State.parseStart
  rw [if_neg hfit, if_neg hmin, if_pos hstart]
  unfold State.parseSum
  rw [if_pos (by exact hframe)]
  unfold State.parseCrc
  rw [if_pos (by exact hresidue _ rfl rfl)]
  unfold State.parseEnd
  rw [if_pos (by exact hend)]
  rfl

theorem witness_EveryCommandFinishes :
    (∃ t, engineStep (latched 0x03000001) = .next t) ∧ ∃ t, engineStep (latched 0xFFFFFFFF) = .next t :=
  ⟨⟨_, rfl⟩, _, rfl⟩

theorem witness_ResultCodesByOpcode :
    (∀ w, (latched w).pending = some w) ∧ ((0x07000000 : Word).extractLsb' 24 8).toNat ∈ [1, 2, 4, 5, 7] ∧
      ((0x06000000 : Word).extractLsb' 24 8).toNat ∈ [3, 6] ∧ ((0x08000000 : Word).extractLsb' 24 8).toNat = 8 ∧
      ((0x09000000 : Word).extractLsb' 24 8).toNat ∉ [1, 2, 3, 4, 5, 6, 7, 8] := ⟨fun _ => rfl, by decide⟩

theorem witness_CommandsLeaveOtherRegisters :
    Instr.crcSeed 0 ≠ .build ∧ Instr.build ≠ .parse ∧ (∀ imm16, Instr.sumByte 1 ≠ .crcSeed imm16) ∧
      (∀ imm8, Instr.sumByte 1 ≠ .crcByte imm8) ∧ (∀ a n, Instr.sumByte 1 ≠ .crcRange a n) ∧
      (∀ imm8, Instr.crcByte 1 ≠ .sumSeed imm8) ∧ (∀ imm8, Instr.crcByte 1 ≠ .sumByte imm8) ∧
      (∀ a n, Instr.crcByte 1 ≠ .sumRange a n) :=
  ⟨nofun, nofun, nofun, nofun, nofun, nofun, nofun, nofun⟩

theorem witness_BusyChangesOnlyByIssueEngineReset :
    State.reset.status.busy = false ∧
      (State.hostAct (.write 0x000 .word 0x07000000) State.reset).status.busy = true ∧
      (latched 0x07000000).status.busy = true ∧ ∃ t, engineStep (latched 0x07000000) = .next t :=
  ⟨rfl, by decide +kernel, rfl, _, rfl⟩

/-- The reset state with DONE, OVR and AERR set. -/
def sticky : State := { State.reset with status := { Status.zero with done := true, ovr := true, aerr := true } }

theorem witness_DoneChangesOnlyByItsEvents :
    (∃ t, engineStep (latched 0x09000000) = .next t) ∧ State.reset.status.done = false ∧
      State.reset.status.busy = false ∧ (0x00000002 : Word).getLsbD 1 = true ∧ sticky.status.done = true ∧
      (State.hostAct (.write 0x000 .word 0x07000000) sticky).status.done = false ∧
      (State.hostAct (.write 0x004 .word 0x00000002) sticky).status.done = false :=
  ⟨⟨_, rfl⟩, rfl, rfl, by decide, rfl, by decide +kernel, by decide +kernel⟩

theorem witness_ValidWrittenOnlyByLegalParse :
    (latched 0x08000000).pending = some 0x08000000 ∧ (∃ t, engineStep (latched 0x08000000) = .next t) ∧
      (latched 0x08000001).pending ≠ some 0x08000000 ∧ ∃ t, engineStep (latched 0x08000001) = .next t :=
  ⟨rfl, ⟨_, rfl⟩, by decide, _, rfl⟩

theorem witness_AerrIsSticky :
    accessError 0x034 .word false = true ∧ accessError 0x00C .word true = true ∧
      (0x00000010 : Word).getLsbD 4 = true ∧ sticky.status.aerr = true ∧
      (State.hostAct (.write 0x004 .word 0x00000010) sticky).status.aerr = false ∧
      ∃ t, engineStep (latched 0x02000001) = .next t :=
  ⟨by decide +kernel, by decide +kernel, by decide, rfl, by decide +kernel, _, rfl⟩

theorem witness_ResultWrittenOnlyByEngineStep : ∃ t, engineStep (latched 0x08000000) = .next t := ⟨_, rfl⟩

theorem witness_OperandRegisterWriters :
    (∃ t, step (latched 0x02000001) = .next t ∧ t.crc ≠ (latched 0x02000001).crc) ∧
      (∃ t, step (latched 0x05000001) = .next t ∧ t.sum ≠ (latched 0x05000001).sum) ∧
      (∃ t, step (latched 0x07000000) = .next t ∧ t.len ≠ (latched 0x07000000).len) ∧
      (∃ t, step (hosted [.write 0x014 .word 36]) = .next t ∧ t.len ≠ (hosted []).len) ∧
      (∃ t, step (hosted [.write 0x018 .word 1]) = .next t ∧ t.serial ≠ (hosted []).serial) ∧
      (latched 0x02000001).turns.head? = none ∧ (hosted []).turns.head? = none :=
  ⟨⟨_, rfl, by decide +kernel⟩, ⟨_, rfl, by decide +kernel⟩, ⟨_, rfl, by
    show (State.buildWith _ _).len ≠ _
    rw [State.buildWith_len]
    decide⟩, ⟨_, rfl, by decide +kernel⟩, ⟨_, rfl, by decide +kernel⟩, rfl, rfl⟩

theorem witness_LegalAccesses :
    ((0x000 : Offset).toNat ≤ 0x030 ∧ (0x030 : Offset).toNat ≤ 0x030) ∧
      (0x200 ≤ (0x200 : Offset).toNat ∧ (0x200 : Offset).toNat ≤ 0x3FF ∧ accessError 0x200 .byte true = false) ∧
      (0x200 ≤ (0x3FF : Offset).toNat ∧ (0x3FF : Offset).toNat ≤ 0x3FF ∧ accessError 0x3FF .byte false = false) := by
  decide +kernel

theorem witness_OtherOffsetsAreErrors :
    (0x031 ≤ (0x031 : Offset).toNat ∧ (0x031 : Offset).toNat ≤ 0x1FF) ∧
      (0x031 ≤ (0x1FF : Offset).toNat ∧ (0x1FF : Offset).toNat ≤ 0x1FF) ∧ 0x400 ≤ (0x400 : Offset).toNat ∧
      0x400 ≤ (0xFFF : Offset).toNat := by decide

theorem witness_AccessErrorSetsAerrOnly :
    ([(0x000, .word), (0x034, .word), (0x1FC, .word), (0x400, .byte), (0xFFF, .byte), (0x201, .half), (0x202, .word),
      (0x200, .reserved), (0x030, .byte), (0x033, .byte)].all fun (a, z) => accessError a z false) = true ∧
      ([(0x00C, .word), (0x030, .word), (0x000, .half), (0x031, .byte), (0x1FF, .byte), (0x400, .word)].all fun (a, z) =>
        accessError a z true) = true := by decide +kernel

theorem witness_LegalReadsReturnAndChangeNothing :
    ([(0x004, .word), (0x008, .word), (0x00C, .word), (0x010, .word), (0x014, .word), (0x018, .word), (0x01C, .word),
      (0x020, .word), (0x024, .word), (0x028, .word), (0x02C, .word), (0x030, .word), (0x200, .byte), (0x3FF, .byte),
      (0x3FE, .half), (0x3FC, .word)].all fun (a, z) => !accessError a z false) = true ∧
      (0x3FC : Offset).toNat = 0x200 + 508 ∧ (0x004 : Offset).toNat < 0x200 ∧
      accessError 0x000 .word false = true := by decide +kernel

theorem witness_FbWritesAreLittleEndian :
    accessError 0x3FE .half false = false ∧ ([(0x200, .word), (0x3FC, .word), (0x3FE, .half), (0x3FF, .byte)].all fun (a, z) => !accessError a z true) = true ∧
      (0x3FF : Offset).toNat = 0x200 + 511 ∧ 0 < 511 ∧ State.reset.status.busy = false := by decide +kernel

theorem witness_ControlAndOperandWrites : State.reset.status.busy = false := rfl

theorem witness_BusyWritesOverrun :
    (latched 0x02000001).status.busy = true ∧
      ([(0x000, .word), (0x004, .word), (0x008, .word), (0x014, .word), (0x018, .word), (0x200, .byte),
        (0x3FC, .word)].all fun (a, z) => !accessError a z true) = true ∧ accessError 0x004 .word false = false ∧
      (0x00000008 : Word).getLsbD 3 = true ∧ sticky.status.ovr = true ∧
      (State.hostAct (.write 0x004 .word 0x00000008) sticky).status.ovr = false ∧
      ∃ t, engineStep (latched 0x02000001) = .next t :=
  ⟨rfl, by decide +kernel, by decide +kernel, by decide, rfl, by decide +kernel, _, rfl⟩

theorem witness_IrqFollowsEnableAndDone :
    (0x00000002 : Word).getLsbD 1 = true ∧ State.reset.status.busy = false ∧ sticky.status.done = true := by decide

theorem witness_StepKeepsInvariant : Inv (latched 0x07000000) ∧ ∃ t, step (latched 0x07000000) = .next t :=
  ⟨latched_inv _, _, rfl⟩

theorem witness_MachineNeverStops : Inv (latched 0xFFFFFFFF) := latched_inv _

theorem witness_HostCannotChangeLatchedCommand :
    (latched 0x03000001).status.busy = true ∧ ∃ t, engineStep (latched 0x03000001) = .next t := ⟨rfl, _, rfl⟩

theorem witness_WrittenBytesDecideResults :
    ∃ t, exec (.crcRange 0 2) (loaded [0x01, 0x03] 0) = .next t ∧ t.unwrittenRead = false :=
  ⟨_, rfl, by decide +kernel⟩

theorem witness_RangeCommandsRecordUnwrittenReads : 0 + 512 ≤ 512 ∧ 512 + 0 ≤ 512 := by decide

end Sys2Proof.Tests
end

section
/-! SUPPORT. What a command leaves as it was, and what an engine step and a host action can do, each said once. -/

namespace Sys2Proof

/-- The commands that write CRC (spec/10_state.md R32). -/
def Instr.writesCrc : Instr → Bool
  | .crcSeed _ | .crcByte _ | .crcRange _ _ | .build | .parse => true
  | .sumSeed _ | .sumByte _ | .sumRange _ _ => false

/-- The commands that write SUM (spec/10_state.md R33). -/
def Instr.writesSum : Instr → Bool
  | .sumSeed _ | .sumByte _ | .sumRange _ _ | .build | .parse => true
  | .crcSeed _ | .crcByte _ | .crcRange _ _ => false

theorem Instr.writesCrc_eq_false_iff (i : Instr) :
    i.writesCrc = false ↔ (∀ imm16, i ≠ .crcSeed imm16) ∧ (∀ imm8, i ≠ .crcByte imm8) ∧
      (∀ a n, i ≠ .crcRange a n) ∧ i ≠ .build ∧ i ≠ .parse := by
  cases i <;> simp [Instr.writesCrc]

theorem Instr.writesSum_eq_false_iff (i : Instr) :
    i.writesSum = false ↔ (∀ imm8, i ≠ .sumSeed imm8) ∧ (∀ imm8, i ≠ .sumByte imm8) ∧
      (∀ a n, i ≠ .sumRange a n) ∧ i ≠ .build ∧ i ≠ .parse := by
  cases i <;> simp [Instr.writesSum]

theorem Opcode.instr_opcode (op : Opcode) (w : Word) : (op.instr w).opcode = op := by cases op <;> rfl

/-- A command without operands has one word, its row's match (R59, R60). -/
theorem decode_operandFree {w : Word} {i : Instr} (h : decode w = .ok i) (hn : i.opcode.format = .none) :
    w = i.opcode.pattern := by
  obtain ⟨op, -, hfits, rfl⟩ := (decode_eq_ok_iff w i).mp h
  rw [Opcode.instr_opcode] at hn ⊢
  have hw : w.toNat = op.pattern.toNat := by simpa [hn, Format.operandWidth] using (op.fits_iff w).mp hfits
  exact BitVec.eq_of_toNat_eq hw

end Sys2Proof

namespace Sys2Proof.Machine

open Sys2Proof.Safety

/-! Commands. -/

/-- What a command leaves as it was, whichever it is (spec/10_state.md R22, R32, R33, R35, R37). -/
structure CommandLeaves (i : Instr) (s t : State) : Prop where
  finished : Finished t
  same : SameBystanders s t
  len : i ≠ .build → t.len = s.len
  fb : i ≠ .build → t.fb = s.fb
  view : i ≠ .parse → t.view = s.view
  valid : i ≠ .parse → t.status.valid = s.status.valid
  crc : i.writesCrc = false → t.crc = s.crc
  sum : i.writesSum = false → t.sum = s.sum

/-- The six generator commands end as a finish after writing CRC, SUM and the record of unwritten reads at most. -/
theorem CommandLeaves.of_finish {i : Instr} {s : State} {crc : Half} {sum : Byte} (code : ResultCode)
    (unwrittenRead : Bool) (hcrc : i.writesCrc = false → crc = s.crc) (hsum : i.writesSum = false → sum = s.sum) :
    CommandLeaves i s (State.finish code { s with crc := crc, sum := sum, unwrittenRead := unwrittenRead }) where
  finished := State.finish_finished _ _
  same := ⟨rfl, rfl, rfl, rfl, rfl, rfl, rfl, rfl⟩
  len := fun _ => rfl
  fb := fun _ => rfl
  view := fun _ => rfl
  valid := fun _ => rfl
  crc := hcrc
  sum := hsum

theorem State.buildWith_leaves (template : Nat → Byte) (s : State) :
    CommandLeaves .build s (s.buildWith template) where
  finished := ⟨by simp, by simp, by simp⟩
  same := s.buildWith_same template
  len := fun h => absurd rfl h
  fb := fun h => absurd rfl h
  view := fun _ => by simp
  valid := fun _ => by simp
  crc := nofun
  sum := nofun

theorem ParseLeaves.commandLeaves {s t : State} (h : ParseLeaves s t) : CommandLeaves .parse s t where
  finished := h.finished
  same := h.same
  len := fun _ => h.len
  fb := fun _ => h.fb
  view := fun hp => absurd rfl hp
  valid := fun hp => absurd rfl hp
  crc := nofun
  sum := nofun

/-- Every command completes, and leaves what `CommandLeaves` says. -/
theorem exec_next_leaves (i : Instr) (s : State) : ∃ t, exec i s = .next t ∧ CommandLeaves i s t := by
  cases i with
  | crcSeed imm16 => exact ⟨_, rfl, .of_finish .ok s.unwrittenRead nofun fun _ => rfl⟩
  | crcByte imm8 => exact ⟨_, rfl, .of_finish .ok s.unwrittenRead nofun fun _ => rfl⟩
  | crcRange start count =>
    refine ⟨_, rfl, ?_⟩
    split
    · exact .of_finish .ok _ nofun fun _ => rfl
    · exact .of_finish .rangeError s.unwrittenRead (fun _ => rfl) fun _ => rfl
  | sumSeed imm8 => exact ⟨_, rfl, .of_finish .ok s.unwrittenRead (fun _ => rfl) nofun⟩
  | sumByte imm8 => exact ⟨_, rfl, .of_finish .ok s.unwrittenRead (fun _ => rfl) nofun⟩
  | sumRange start count =>
    refine ⟨_, rfl, ?_⟩
    split
    · exact .of_finish .ok _ (fun _ => rfl) nofun
    · exact .of_finish .rangeError s.unwrittenRead (fun _ => rfl) fun _ => rfl
  | build => exact ⟨_, rfl, s.buildWith_leaves _⟩
  | parse => exact ⟨_, rfl, (s.parseWith_leaves _).commandLeaves⟩

theorem exec_leaves {i : Instr} {s t : State} (h : exec i s = .next t) : CommandLeaves i s t := by
  obtain ⟨t', h', hl⟩ := exec_next_leaves i s
  rw [h] at h'
  exact Host.Outcome.next.inj h' ▸ hl

theorem exec_build_eq {s t : State} (h : exec .build s = .next t) : t = s.buildWith Config.template :=
  (Host.Outcome.next.inj h).symm

theorem exec_parse_leaves {s t : State} (h : exec .parse s = .next t) : ParseLeaves s t :=
  Host.Outcome.next.inj h ▸ s.parseWith_leaves Config.minLen

/-! The engine step. -/

/-- An engine step that answers performed the command of the latched word, or found that word illegal (R58, R62 to
R64). -/
theorem engineStep_next_cases {s t : State} (h : engineStep s = .next t) :
    ∃ w, s.pending = some w ∧
      ((∃ i, decode w = .ok i ∧ exec i s = .next t) ∨ (∃ e, decode w = .error e) ∧ t = s.illegal) := by
  cases hp : s.pending with
  | none => simp [engineStep, hp] at h
  | some w =>
    refine ⟨w, rfl, ?_⟩
    obtain ⟨i, hd, he⟩ | ⟨e, hd, he⟩ := engineStep_cases hp
    · exact .inl ⟨i, hd, he ▸ h⟩
    · exact .inr ⟨⟨e, hd⟩, (Host.Outcome.next.inj (he ▸ h)).symm⟩

/-- What every engine step leaves, whatever the word: it has finished, and the bystanders are as they were; LEN and FB
are written for BUILD's word alone, VALID and the view for PARSE's. -/
structure EngineLeaves (s t : State) : Prop where
  finished : Finished t
  same : SameBystanders s t
  len : s.pending ≠ some 0x07000000 → t.len = s.len
  fb : s.pending ≠ some 0x07000000 → t.fb = s.fb
  view : s.pending ≠ some 0x08000000 → t.view = s.view
  valid : s.pending ≠ some 0x08000000 → t.status.valid = s.status.valid

theorem State.illegal_leaves (s : State) : EngineLeaves s s.illegal where
  finished := s.finish_finished _
  same := ⟨rfl, rfl, rfl, rfl, rfl, rfl, rfl, rfl⟩
  len := fun _ => rfl
  fb := fun _ => rfl
  view := fun _ => rfl
  valid := fun _ => rfl

/-- A command's frame as one of the latched word: only `0x07000000` is BUILD and only `0x08000000` is PARSE (R60). -/
theorem CommandLeaves.engineLeaves {i : Instr} {s t : State} {w : Word} (h : CommandLeaves i s t)
    (hp : s.pending = some w) (hd : decode w = .ok i) : EngineLeaves s t := by
  have hbuild : s.pending ≠ some 0x07000000 → i ≠ .build := by
    rintro hne rfl
    exact hne (hp.trans (congrArg some (decode_operandFree hd rfl)))
  have hparse : s.pending ≠ some 0x08000000 → i ≠ .parse := by
    rintro hne rfl
    exact hne (hp.trans (congrArg some (decode_operandFree hd rfl)))
  exact ⟨h.finished, h.same, fun hne => h.len (hbuild hne), fun hne => h.fb (hbuild hne),
    fun hne => h.view (hparse hne), fun hne => h.valid (hparse hne)⟩

theorem engineStep_leaves {s t : State} (h : engineStep s = .next t) : EngineLeaves s t := by
  obtain ⟨w, hp, ⟨i, hd, he⟩ | ⟨-, rfl⟩⟩ := engineStep_next_cases h
  · exact (exec_leaves he).engineLeaves hp hd
  · exact s.illegal_leaves

/-- The word 0x07000000 is performed as BUILD. -/
theorem engineStep_build {s t : State} (hp : s.pending = some 0x07000000) (h : engineStep s = .next t) :
    t = s.buildWith Config.template := by
  simp only [engineStep, hp] at h
  exact exec_build_eq h

/-- The word 0x08000000 is performed as PARSE. -/
theorem engineStep_parse {s t : State} (hp : s.pending = some 0x08000000) (h : engineStep s = .next t) :
    ParseLeaves s t := by
  simp only [engineStep, hp] at h
  exact exec_parse_leaves h

/-! Host actions. -/

namespace QuietStep

variable {s t : State} (h : QuietStep s t)
include h

theorem crc : t.crc = s.crc := by rw [h.same]
theorem sum : t.sum = s.sum := by rw [h.same]
theorem len : t.len = s.len := by rw [h.same]
theorem serial : t.serial = s.serial := by rw [h.same]
theorem view : t.view = s.view := by rw [h.same]
theorem status : t.status = { s.status with ovr := t.status.ovr, aerr := t.status.aerr } :=
  congrArg State.status h.same

end QuietStep

/-- What one action of the host can do: the host step's cases (`State.hostStep_effect`) for an action not taken from the
list. -/
theorem State.hostAct_effect (op : HostOp) (s : State) :
    QuietStep s (State.hostAct op s) ∨
    (∃ v, op = .write Offset.cmd .word v ∧ s.status.busy = false ∧
      State.hostAct op s = { s.latch v with rdata := none }) ∨
    (∃ v, op = .write Offset.status .word v ∧ State.hostAct op s = { s.clearStatus v with rdata := none }) ∨
    ((State.hostAct op s).status = s.status ∧ (State.hostAct op s).view = s.view) := by
  have hact : State.hostAct op s = State.hostStep { s with hostOps := op :: s.hostOps } := rfl
  rw [hact]
  obtain h | ⟨v, rest, ho, hb, h⟩ | ⟨v, rest, ho, h⟩ | ⟨v, rest, -, h⟩ | ⟨v, rest, -, -, h⟩ | ⟨v, rest, -, -, h⟩ |
    ⟨a, z, v, rest, -, -, -, -, h⟩ := State.hostStep_effect { s with hostOps := op :: s.hostOps }
  · exact .inl ⟨h.same, h.ovr, h.aerr⟩
  · obtain ⟨rfl, rfl⟩ := List.cons.inj ho
    exact .inr (.inl ⟨v, rfl, hb, h⟩)
  · obtain ⟨rfl, rfl⟩ := List.cons.inj ho
    exact .inr (.inr (.inl ⟨v, rfl, h⟩))
  all_goals exact .inr (.inr (.inr (by rw [h]; exact ⟨rfl, rfl⟩)))

/-- What one action of the host can do to STATUS: set the two sticky bits at most; or be the accepted CMD write; or be a
STATUS write (R19 to R25). -/
theorem State.hostAct_status_cases (op : HostOp) (s : State) :
    ((State.hostAct op s).status = { s.status with
        ovr := (State.hostAct op s).status.ovr
        aerr := (State.hostAct op s).status.aerr } ∧
      (s.status.ovr = true → (State.hostAct op s).status.ovr = true) ∧
      (s.status.aerr = true → (State.hostAct op s).status.aerr = true)) ∨
    (∃ v, op = .write Offset.cmd .word v ∧ s.status.busy = false ∧
      (State.hostAct op s).status = { s.status with busy := true, done := false }) ∨
    (∃ v, op = .write Offset.status .word v ∧ (State.hostAct op s).status = (s.clearStatus v).status) := by
  obtain h | ⟨v, ho, hb, h⟩ | ⟨v, ho, h⟩ | ⟨h, -⟩ := State.hostAct_effect op s
  · exact .inl ⟨h.status, h.ovr, h.aerr⟩
  · exact .inr (.inl ⟨v, ho, hb, by rw [h]; rfl⟩)
  · exact .inr (.inr ⟨v, ho, by rw [h]⟩)
  · exact .inl ⟨by rw [h], by rw [h]; exact id, by rw [h]; exact id⟩

/-- No action of the host writes the view (R26 to R29). -/
theorem State.hostAct_view (op : HostOp) (s : State) : (State.hostAct op s).view = s.view := by
  obtain h | ⟨v, -, -, h⟩ | ⟨v, -, h⟩ | ⟨-, h⟩ := State.hostAct_effect op s
  · exact h.view
  · rw [h]; rfl
  · rw [h]; rfl
  · exact h

end Sys2Proof.Machine
end

section
/-! SUPPORT. Legal register accesses, one equation a register, and the bits of STATUS and PARAM as they are read. -/

namespace Sys2Proof.Machine

theorem State.unlessBusy_busy {s : State} (h : s.status.busy = true) (s' : State) : s.unlessBusy s' = s.setOvr := by
  simp [State.unlessBusy, h]

theorem State.unlessBusy_idle {s : State} (h : s.status.busy = false) (s' : State) : s.unlessBusy s' = s' := by
  simp [State.unlessBusy, h]

/-- An access that is no error is outside the reserved ranges (R46 (c)). -/
theorem accessError_false_not_reserved {a : Offset} {z : Size} {w : Bool} (h : accessError a z w = false) :
    inReserved a = false := by
  cases hr : inReserved a with
  | false => rfl
  | true => simp [accessError, hr] at h

/-- A legal access from 0x200 up is one to FB (R43, R46 (c)). -/
theorem inFbWindow_of_legal {a : Offset} {z : Size} {w : Bool} (h : accessError a z w = false)
    (ha : 0x200 ≤ a.toNat) : inFbWindow a = true := by
  have hr := accessError_false_not_reserved h
  simp only [inReserved, inFbWindow, Bool.or_eq_false_iff, Bool.and_eq_true, decide_eq_true_eq,
    decide_eq_false_iff_not] at hr ⊢
  omega

theorem State.busWrite_fb {a : Offset} {z : Size} (h : accessError a z true = false) (hf : inFbWindow a = true)
    (v : Word) (s : State) : s.busWrite a z v =
      { s.unlessBusy (s.storeFb (fbIndex a) (wordBytes v z.bytes)) with rdata := none } := by
  simp [State.busWrite, h, hf]

theorem State.busWrite_reg {a : Offset} {z : Size} (h : accessError a z true = false) (hf : inFbWindow a = false)
    (v : Word) (s : State) : s.busWrite a z v = { s.regWrite a v with rdata := none } := by
  simp [State.busWrite, h, hf]

theorem State.busRead_error {a : Offset} {z : Size} (h : accessError a z false = true) (s : State) :
    s.busRead a z = { s.setAerr with rdata := some 0 } := by
  simp [State.busRead, h]

theorem State.busWrite_error {a : Offset} {z : Size} (h : accessError a z true = true) (v : Word) (s : State) :
    s.busWrite a z v = { s.setAerr with rdata := none } := by
  simp [State.busWrite, h]

/-! A register write, one lemma a register (R45). -/

section

variable (s : State) (v : Word)

theorem State.regWrite_cmd : s.regWrite Offset.cmd v = s.unlessBusy (s.latch v) := rfl

theorem State.regWrite_status : s.regWrite Offset.status v = s.clearStatus v := rfl

theorem State.regWrite_ctrl : s.regWrite Offset.ctrl v = { s with ie := v.getLsbD 0 } := rfl

theorem State.regWrite_len : s.regWrite Offset.len v = s.unlessBusy { s with len := v.setWidth 16 } := rfl

theorem State.regWrite_serial : s.regWrite Offset.serial v = s.unlessBusy { s with serial := v } := rfl

theorem State.busWrite_status : s.busWrite Offset.status .word v = { s.clearStatus v with rdata := none } := by
  rw [State.busWrite_reg (by decide) (by decide), State.regWrite_status]

theorem State.busWrite_ctrl : s.busWrite Offset.ctrl .word v = { s with ie := v.getLsbD 0, rdata := none } := by
  rw [State.busWrite_reg (by decide) (by decide), State.regWrite_ctrl]

end

section

variable {s : State} (h : s.status.busy = false) (v : Word)
include h

theorem State.busWrite_cmd_idle : s.busWrite Offset.cmd .word v = { s.latch v with rdata := none } := by
  rw [State.busWrite_reg (by decide) (by decide), State.regWrite_cmd, State.unlessBusy_idle h]

theorem State.busWrite_len_idle :
    s.busWrite Offset.len .word v = { s with len := v.setWidth 16, rdata := none } := by
  rw [State.busWrite_reg (by decide) (by decide), State.regWrite_len, State.unlessBusy_idle h]

theorem State.busWrite_serial_idle : s.busWrite Offset.serial .word v = { s with serial := v, rdata := none } := by
  rw [State.busWrite_reg (by decide) (by decide), State.regWrite_serial, State.unlessBusy_idle h]

end

/-! Write 1 to clear (R19): the old bit, and 0 where the word has a 1. -/

theorem and_not_of_true {c : Bool} (h : c = true) (b : Bool) : (b && !c) = false := by simp [h]

theorem and_not_eq_ite (b c : Bool) : (b && !c) = if c then false else b := by cases c <;> simp

/-! The STATUS and PARAM words. -/

/-- A field of a word, compared bit by bit. -/
theorem extractLsb'_eq_of_getLsbD {w : Word} {start len : Nat} {x : BitVec len}
    (h : ∀ i < len, w.getLsbD (start + i) = x.getLsbD i) : w.extractLsb' start len = x := by
  apply BitVec.eq_of_getLsbD_eq
  intro i hi
  simpa [hi] using h i hi

theorem getLsbD_flagBit (b : Bool) {k : Nat} (hk : k < 32) (i : Nat) :
    (flagBit b k).getLsbD i = (b && decide (k = i)) := by
  cases b with
  | false => simp [flagBit]
  | true =>
    rw [show flagBit true k = BitVec.twoPow 32 k from rfl, BitVec.getLsbD_twoPow]
    simp [hk]

/-- STATUS, bit by bit (R19). -/
theorem Status.getLsbD_word (st : Status) (i : Nat) :
    st.word.getLsbD i = (st.busy && decide (0 = i) || st.done && decide (1 = i) || st.valid && decide (2 = i) ||
      st.ovr && decide (3 = i) || st.aerr && decide (4 = i) || !decide (i < 8) && st.result.code.getLsbD (i - 8)) := by
  rw [Status.word]
  simp only [BitVec.getLsbD_or, BitVec.getLsbD_shiftLeft, BitVec.getLsbD_setWidth]
  rw [getLsbD_flagBit _ (by decide), getLsbD_flagBit _ (by decide), getLsbD_flagBit _ (by decide),
    getLsbD_flagBit _ (by decide), getLsbD_flagBit _ (by decide)]
  congr 1
  by_cases hi : i < 12
  · simp [show i < 32 by omega, show i - 8 < 32 by omega]
  · simp [BitVec.getLsbD_of_ge st.result.code (i - 8) (by omega)]

/-- Above bit 4, STATUS holds RESULT in bits 11:8 and 0 elsewhere (R19). -/
theorem Status.getLsbD_word_of_ge (st : Status) {i : Nat} (h : 5 ≤ i) :
    st.word.getLsbD i = (!decide (i < 8) && st.result.code.getLsbD (i - 8)) := by
  rw [Status.getLsbD_word]
  simp [show 0 ≠ i by omega, show 1 ≠ i by omega, show 2 ≠ i by omega, show 3 ≠ i by omega, show 4 ≠ i by omega]

theorem Config.minLen_bounds : 32 ≤ Config.minLen ∧ Config.minLen ≤ 512 := by
  have := Config.minLenAbove.isLt
  unfold Config.minLen
  omega

/-- PARAM's value, MIN_LEN in its high half (R31). -/
theorem paramWordOf_toNat {n : Nat} (h : n ≤ 512) : (paramWordOf n).toNat = n * 0x10000 + 0x0200 := by
  unfold paramWordOf Config.bufCap
  have h1 : (BitVec.ofNat 16 n).toNat = n := by simp; omega
  simp only [BitVec.toNat_or, BitVec.toNat_shiftLeft, BitVec.toNat_setWidth, h1, Nat.shiftLeft_eq, BitVec.toNat_ofNat]
  have hor : 2 ^ 16 * n + 512 = 2 ^ 16 * n ||| 512 := Nat.two_pow_add_eq_or_of_lt (by decide) n
  rw [show n % 2 ^ 32 * 2 ^ 16 % 2 ^ 32 = 2 ^ 16 * n by omega, show 512 % 2 ^ 32 = 512 from rfl, ← hor]
  omega

end Sys2Proof.Machine
end

section
/-! SUPPORT. Every step keeps the invariant: FB by the writes it can take, PENDING and DONE by `finish` and the latch,
the view by the outcomes of PARSE. -/

namespace Sys2Proof.Safety

open Sys2Proof.Machine

/-- A finished command keeps the invariant once FB and the view are in order. -/
theorem Inv.of_finished {t : State} (hf : Finished t) (hfb : t.fb.wf = true)
    (hview : t.status.valid = false → t.view = View.zero) : Inv t where
  fbCanonical := hfb
  pendingIffBusy := by rw [hf.pending, hf.busy]; rfl
  doneMeansIdle := fun _ => hf.busy
  noStaleView := hview

theorem Inv.resetEvent {s : State} (h : Inv s) : Inv s.resetEvent :=
  ⟨h.fbCanonical, rfl, fun _ => rfl, fun _ => rfl⟩

theorem Inv.powerOnEvent (s : State) : Inv s.powerOnEvent := ⟨rfl, rfl, fun _ => rfl, fun _ => rfl⟩

theorem Inv.withTurns {s : State} (h : Inv s) (turns : List Turn) : Inv { s with turns := turns } :=
  ⟨h.fbCanonical, h.pendingIffBusy, h.doneMeansIdle, h.noStaleView⟩

/-- A CMD write latches a word and sets BUSY together (R58). -/
theorem Inv.latch {s : State} (h : Inv s) (w : Word) : Inv (s.latch w) where
  fbCanonical := h.fbCanonical
  pendingIffBusy := rfl
  doneMeansIdle := fun hd => absurd hd (by simp)
  noStaleView := h.noStaleView

theorem Inv.clearStatus {s : State} (h : Inv s) (w : Word) : Inv (s.clearStatus w) where
  fbCanonical := h.fbCanonical
  pendingIffBusy := h.pendingIffBusy
  doneMeansIdle := fun hd => h.doneMeansIdle (by simp at hd; exact hd.1)
  noStaleView := h.noStaleView

theorem Inv.storeFb {s : State} (h : Inv s) {start : Nat} {bs : List Byte} (hb : start + bs.length ≤ Config.bufCap) :
    Inv (s.storeFb start bs) where
  fbCanonical := Memory.wf_writeBytes h.fbCanonical hb
  pendingIffBusy := h.pendingIffBusy
  doneMeansIdle := h.doneMeansIdle
  noStaleView := h.noStaleView

/-- The fields the invariant does not speak of. -/
theorem Inv.withPort {s : State} (h : Inv s) (ie : Bool) (len : Half) (serial : Word) (hostOps : List HostOp)
    (rdata : Option Word) :
    Inv { s with ie := ie, len := len, serial := serial, hostOps := hostOps, rdata := rdata } :=
  ⟨h.fbCanonical, h.pendingIffBusy, h.doneMeansIdle, h.noStaleView⟩

theorem Inv.quietStep {s t : State} (h : Inv s) (hq : QuietStep s t) : Inv t := by
  rw [hq.same]
  exact ⟨h.fbCanonical, h.pendingIffBusy, h.doneMeansIdle, h.noStaleView⟩

theorem Inv.hostStep {s : State} (h : Inv s) : Inv s.hostStep := by
  obtain hq | ⟨v, rest, -, -, ht⟩ | ⟨v, rest, -, ht⟩ | ⟨v, rest, -, ht⟩ | ⟨v, rest, -, -, ht⟩ | ⟨v, rest, -, -, ht⟩ |
    ⟨a, z, v, rest, -, -, he, hf, ht⟩ := s.hostStep_effect
  · exact h.quietStep hq
  · rw [ht]; exact (h.latch v).withPort ..
  · rw [ht]; exact (h.clearStatus v).withPort ..
  · rw [ht]; exact h.withPort ..
  · rw [ht]; exact h.withPort ..
  · rw [ht]; exact h.withPort ..
  · have hfit : fbIndex a + (wordBytes v z.bytes).length ≤ Config.bufCap := by simpa using fbIndex_add_le he hf
    rw [ht]; exact (h.storeFb hfit).withPort ..

/-- BUILD's frame lies inside FB (R79). -/
theorem Inv.buildWith {s : State} (h : Inv s) (template : Nat → Byte) : Inv (s.buildWith template) := by
  have hfit : 0 + (requestFrame template s.serial).length ≤ Config.bufCap := by simp [Config.bufCap]
  refine .of_finished (s.buildWith_leaves template).finished ?_ ?_
  · rw [State.buildWith_fb]
    exact Memory.wf_writeBytes h.fbCanonical hfit
  · simpa using h.noStaleView

/-- The engine step: BUILD alone writes FB, PARSE alone the view. -/
theorem Inv.engineStep {s t : State} (h : Inv s) (ht : engineStep s = .next t) : Inv t := by
  have hl := engineStep_leaves ht
  by_cases hb : s.pending = some 0x07000000
  · rw [engineStep_build hb ht]
    exact h.buildWith _
  · have hfb : t.fb.wf = true := by rw [hl.fb hb]; exact h.fbCanonical
    refine .of_finished hl.finished hfb ?_
    by_cases hp : s.pending = some 0x08000000
    · exact (engineStep_parse hp ht).view
    · rw [hl.view hp, hl.valid hp]
      exact h.noStaleView

/-- Every step keeps the invariant, by what a step can do (`step_cases`). -/
theorem Inv.step {s t : State} (h : Inv s) (ht : step s = .next t) : Inv t := by
  have hu := h.withTurns s.turns.tail
  obtain ⟨hs, -⟩ | ⟨hs, -, -⟩ | ⟨hs, -, -⟩ | ⟨hs, -⟩ | ⟨hs, -⟩ := step_cases s
  · obtain rfl := Host.Outcome.next.inj (hs.symm.trans ht)
    exact hu.hostStep
  · exact hu.engineStep (hs.symm.trans ht)
  · obtain rfl := Host.Outcome.next.inj (hs.symm.trans ht)
    exact hu
  · obtain rfl := Host.Outcome.next.inj (hs.symm.trans ht)
    exact hu.resetEvent
  · obtain rfl := Host.Outcome.next.inj (hs.symm.trans ht)
    exact .powerOnEvent _

/-- Settles O54, by the cases of a step: the host's access, the engine step, a passing turn, reset and power-on each keep
the invariant. -/
theorem stepKeepsInvariant : Obligations.StepKeepsInvariant := fun _ _ => Inv.step

end Sys2Proof.Safety
end

section
/-! SUPPORT. The statements about what each command and each flag's events write. -/

namespace Sys2Proof.Machine

open Sys2Proof.Safety

/-- Settles O34, by the frame of each command (`exec_next_leaves`). -/
theorem commandsLeaveOtherRegisters : Obligations.CommandsLeaveOtherRegisters := by
  intro i s
  obtain ⟨t, he, hl⟩ := exec_next_leaves i s
  refine ⟨t, he, hl.same, ?_, fun hp => ⟨hl.view hp, hl.valid hp⟩, ?_, ?_⟩
  · exact fun hb => ⟨hl.len hb, hl.fb hb, State.fbByte_congr (hl.fb hb) hl.same.powerOns⟩
  · exact fun h1 h2 h3 h4 h5 => hl.crc (i.writesCrc_eq_false_iff.mpr ⟨h1, h2, h3, h4, h5⟩)
  · exact fun h1 h2 h3 h4 h5 => hl.sum (i.writesSum_eq_false_iff.mpr ⟨h1, h2, h3, h4, h5⟩)

/-- Settles O35, by the three things a host action can do to STATUS and by `finish`. -/
theorem busyChangesOnlyByIssueEngineReset : Obligations.BusyChangesOnlyByIssueEngineReset := by
  refine ⟨fun s w hb => ?_, fun op s hb ht => ?_, fun op s hb => ?_, fun s t h => (engineStep_leaves h).finished.busy,
    fun _ => rfl⟩
  · exact congrArg (·.status.busy) (State.busWrite_cmd_idle hb w)
  · obtain ⟨h, -, -⟩ | ⟨v, ho, -, -⟩ | ⟨v, -, h⟩ := State.hostAct_status_cases op s
    · rw [h] at ht; simp [hb] at ht
    · exact ⟨v, ho⟩
    · rw [h] at ht; simp [hb] at ht
  · obtain ⟨h, -, -⟩ | ⟨v, -, hidle, -⟩ | ⟨v, -, h⟩ := State.hostAct_status_cases op s
    · rw [h]; exact hb
    · rw [hb] at hidle; cases hidle
    · rw [h]; exact hb

/-- Settles O36, by the three things a host action can do to STATUS and by `finish`. -/
theorem doneChangesOnlyByItsEvents : Obligations.DoneChangesOnlyByItsEvents := by
  refine ⟨fun s t h => (engineStep_leaves h).finished.done, fun op s hd => ?_, fun s w hb => ?_, fun s w hw => ?_,
    fun op s hd ht => ?_, fun _ => rfl⟩
  · obtain ⟨h, -, -⟩ | ⟨v, -, -, h⟩ | ⟨v, -, h⟩ := State.hostAct_status_cases op s
    · rw [h]; exact hd
    · rw [h]
    · rw [h]; simp [hd]
  · exact congrArg (·.status.done) (State.busWrite_cmd_idle hb w)
  · exact (congrArg (·.status.done) (s.busWrite_status w)).trans (and_not_of_true hw _)
  · obtain ⟨h, -, -⟩ | ⟨v, ho, hb, -⟩ | ⟨v, ho, h⟩ := State.hostAct_status_cases op s
    · rw [h] at ht; simp [hd] at ht
    · exact .inl ⟨hb, v, ho⟩
    · rw [h] at ht; exact .inr ⟨v, ho, by simpa [hd] using ht⟩

/-- No action of the host writes VALID (R22). -/
theorem State.hostAct_valid (op : HostOp) (s : State) : (State.hostAct op s).status.valid = s.status.valid := by
  obtain ⟨h, -, -⟩ | ⟨v, -, -, h⟩ | ⟨v, -, h⟩ := State.hostAct_status_cases op s
  · rw [h]
  · rw [h]
  · rw [h, State.clearStatus_valid]

/-- No action of the host writes RESULT (R25). -/
theorem State.hostAct_result (op : HostOp) (s : State) : (State.hostAct op s).status.result = s.status.result := by
  obtain ⟨h, -, -⟩ | ⟨v, -, -, h⟩ | ⟨v, -, h⟩ := State.hostAct_status_cases op s
  · rw [h]
  · rw [h]
  · rw [h, State.clearStatus_result]

/-- Settles O37: the word 0x08000000 is performed as PARSE, and any other step leaves VALID and the view. -/
theorem validWrittenOnlyByLegalParse : Obligations.ValidWrittenOnlyByLegalParse := by
  refine ⟨fun s t hp h => (engineStep_parse hp h).valid, fun s t hp h => ?_,
    fun op s => ⟨State.hostAct_valid op s, State.hostAct_view op s⟩, fun _ => rfl⟩
  have hl := engineStep_leaves h
  exact ⟨hl.valid hp, hl.view hp⟩

/-- Settles O38, by the cases of an access and by the bystanders of the engine step. -/
theorem aerrIsSticky : Obligations.AerrIsSticky := by
  refine ⟨fun a z s he => ?_, fun a z w s he => ?_, fun s w hw => ?_, fun op s ha ht => ?_,
    fun s t h => (engineStep_leaves h).same.aerr, fun _ => rfl⟩
  · rw [State.busRead_error he]; rfl
  · rw [State.busWrite_error he]; rfl
  · exact (congrArg (·.status.aerr) (s.busWrite_status w)).trans (and_not_of_true hw _)
  · obtain ⟨-, -, h⟩ | ⟨v, -, -, h⟩ | ⟨v, ho, h⟩ := State.hostAct_status_cases op s
    · rw [h ha] at ht; cases ht
    · rw [h] at ht; simp [ha] at ht
    · rw [h] at ht; exact ⟨v, ho, by simpa [ha] using ht⟩

/-! RESULT is overwritten: no stage of a command reads it, and `finish` writes it. -/

/-- The same state with another RESULT. -/
def State.setResult (code : ResultCode) (s : State) : State :=
  { s with status := { s.status with result := code } }

section

variable (code : ResultCode) (s : State)

/-- Each path of a command carries RESULT along unread, to the `finish` that overwrites it. -/
theorem exec_setResult (i : Instr) : exec i (s.setResult code) = exec i s := by cases i <;> rfl

theorem engineStep_setResult : engineStep (s.setResult code) = engineStep s := by
  unfold engineStep
  rw [show (s.setResult code).pending = s.pending from rfl]
  cases s.pending with
  | none => rfl
  | some w =>
    simp only [exec_setResult]
    rfl

end

/-- Settles O39: the engine step does not depend on RESULT, and no host action changes it. -/
theorem resultWrittenOnlyByEngineStep : Obligations.ResultWrittenOnlyByEngineStep :=
  ⟨fun s _ code h => (engineStep_setResult code s).trans h, State.hostAct_result, fun _ => rfl⟩

/-- What a host step can do to CRC, SUM, LEN and SERIAL: at most a LEN or SERIAL write of an idle block (R35, R36). -/
theorem State.hostStep_operands (s : State) :
    s.hostStep.crc = s.crc ∧ s.hostStep.sum = s.sum ∧
    (s.hostStep.len = s.len ∨ s.status.busy = false ∧
      ∃ v rest, s.hostOps = .write Offset.len .word v :: rest ∧ s.hostStep.len = v.setWidth 16) ∧
    (s.hostStep.serial = s.serial ∨ s.status.busy = false ∧
      ∃ rest, s.hostOps = .write Offset.serial .word s.hostStep.serial :: rest) := by
  obtain h | ⟨v, rest, -, -, h⟩ | ⟨v, rest, -, h⟩ | ⟨v, rest, -, h⟩ | ⟨v, rest, ho, hb, h⟩ | ⟨v, rest, ho, hb, h⟩ |
    ⟨a, z, v, rest, -, -, -, -, h⟩ := s.hostStep_effect
  · exact ⟨h.crc, h.sum, .inl h.len, .inl h.serial⟩
  · rw [h]; exact ⟨rfl, rfl, .inl rfl, .inl rfl⟩
  · rw [h]; exact ⟨rfl, rfl, .inl rfl, .inl rfl⟩
  · rw [h]; exact ⟨rfl, rfl, .inl rfl, .inl rfl⟩
  · rw [h]; exact ⟨rfl, rfl, .inr ⟨hb, v, rest, ho, rfl⟩, .inl rfl⟩
  · rw [h]; exact ⟨rfl, rfl, .inl rfl, .inr ⟨hb, rest, ho⟩⟩
  · rw [h]; exact ⟨rfl, rfl, .inl rfl, .inl rfl⟩

/-- An engine step writes LEN for BUILD's word alone, and to 36 (R35, R80). -/
theorem engineStep_len {s t : State} (h : engineStep s = .next t) :
    t.len = s.len ∨ s.pending = some 0x07000000 ∧ t.len = 36 := by
  by_cases hp : s.pending = some 0x07000000
  · exact .inr ⟨hp, by rw [engineStep_build hp h, State.buildWith_len]⟩
  · exact .inl ((engineStep_leaves h).len hp)

/-- Settles O40, by the cases of a step: only the engine's turn and the host's can write the four registers. -/
theorem operandRegisterWriters : Obligations.OperandRegisterWriters := by
  intro s t ht hrst hpow
  obtain ⟨hs, hturn⟩ | ⟨hs, hb, hturn⟩ | ⟨hs, -, -⟩ | ⟨-, hr⟩ | ⟨-, hp⟩ := step_cases s
  · obtain rfl := Host.Outcome.next.inj (hs.symm.trans ht)
    obtain ⟨hcrc, hsum, hlen, hserial⟩ := State.hostStep_operands { s with turns := s.turns.tail }
    refine ⟨fun hne => absurd hcrc hne, fun hne => absurd hsum hne, fun hne => ?_, fun hne => ?_⟩
    · obtain ⟨hb, v, rest, ho, hv⟩ := hlen.resolve_left hne
      exact .inr ⟨hturn, hb, v, rest, ho, hv.trans (BitVec.setWidth_eq_extractLsb' (by decide))⟩
    · obtain ⟨hb, rest, ho⟩ := hserial.resolve_left hne
      exact ⟨hturn, hb, rest, ho⟩
  · rw [hs] at ht
    have hnext : engineNext s := ⟨hturn, hb⟩
    refine ⟨fun _ => hnext, fun _ => hnext, fun hne => ?_, fun hne => ?_⟩
    · obtain ⟨hp, hlen⟩ := (engineStep_len ht).resolve_left hne
      exact .inl ⟨hnext, hp, hlen⟩
    · exact absurd (engineStep_leaves ht).same.serial hne
  · obtain rfl := Host.Outcome.next.inj (hs.symm.trans ht)
    exact ⟨fun hne => absurd rfl hne, fun hne => absurd rfl hne, fun hne => absurd rfl hne, fun hne => absurd rfl hne⟩
  · exact absurd hr hrst
  · exact absurd hp hpow

/-- A legal write to CMD, LEN, SERIAL or FB while BUSY = 1 sets OVR and does nothing else (R99). -/
theorem State.busWrite_overrun {s : State} {a : Offset} {z : Size} (hb : s.status.busy = true)
    (he : accessError a z true = false) (v : Word)
    (ha : a = Offset.cmd ∨ a = Offset.len ∨ a = Offset.serial ∨ 0x200 ≤ a.toNat) :
    s.busWrite a z v = { s.setOvr with rdata := none } := by
  obtain rfl | rfl | rfl | ha := ha
  · rw [State.busWrite_reg he (by decide), State.regWrite_cmd, State.unlessBusy_busy hb]
  · rw [State.busWrite_reg he (by decide), State.regWrite_len, State.unlessBusy_busy hb]
  · rw [State.busWrite_reg he (by decide), State.regWrite_serial, State.unlessBusy_busy hb]
  · rw [State.busWrite_fb he (inFbWindow_of_legal he ha), State.unlessBusy_busy hb]

/-- Writes to STATUS and CTRL are taken as they come and never set OVR (R99). -/
theorem State.regWrite_ovr_of_status_or_ctrl {a : Offset} (ha : a = Offset.status ∨ a = Offset.ctrl) (v : Word)
    (s : State) : (s.regWrite a v).status.ovr = true → s.status.ovr = true := by
  obtain rfl | rfl := ha
  · rw [State.regWrite_status, State.clearStatus_ovr, Bool.and_eq_true]
    exact And.left
  · exact id

/-- A legal read leaves STATUS (R44). -/
theorem State.busRead_status {a : Offset} {z : Size} (h : accessError a z false = false) (s : State) :
    (s.busRead a z).status = s.status := by
  obtain ⟨he, -⟩ | ⟨-, -, hr⟩ | ⟨-, -, hr⟩ := s.busRead_cases a z
  · rw [h] at he; cases he
  · rw [hr]; rfl
  · rw [hr]

/-- Settles O48, by the equations of the writes and the three things a host action can do to STATUS. -/
theorem busyWritesOverrun : Obligations.BusyWritesOverrun := by
  refine ⟨fun s a z v hb he ha => ?_, fun s a z v _ he ha => ?_, fun s a z he => State.busRead_status he s,
    fun s w hw => ?_, fun op s ho ht => ?_, fun s t h => (engineStep_leaves h).same.ovr, fun _ => rfl⟩
  · exact State.busWrite_overrun hb he v
      (ha.imp BitVec.eq_of_toNat_eq (Or.imp BitVec.eq_of_toNat_eq (Or.imp BitVec.eq_of_toNat_eq id)))
  · have hreg : a = Offset.status ∨ a = Offset.ctrl := ha.imp BitVec.eq_of_toNat_eq BitVec.eq_of_toNat_eq
    have hf : inFbWindow a = false := by obtain rfl | rfl := hreg <;> decide
    have hw := State.busWrite_reg he hf v s
    exact ⟨hw, by rw [hw]; exact State.regWrite_ovr_of_status_or_ctrl hreg v s⟩
  · exact (congrArg (·.status.ovr) (s.busWrite_status w)).trans (and_not_of_true hw _)
  · obtain ⟨-, h, -⟩ | ⟨v, -, -, h⟩ | ⟨v, hop, h⟩ := State.hostAct_status_cases op s
    · rw [h ho] at ht; cases ht
    · rw [h] at ht; simp [ho] at ht
    · rw [h] at ht; exact ⟨v, hop, by simpa [ho] using ht⟩

/-- Settles O46: STATUS bit by bit, and the equation of a STATUS write. -/
theorem statusBitsAndWriteOneToClear : Obligations.StatusBitsAndWriteOneToClear := by
  refine ⟨fun s => ?_, fun s w => ?_⟩
  · have hbit := Status.getLsbD_word s.status
    refine ⟨(hbit 0).trans (by simp), (hbit 1).trans (by simp), (hbit 2).trans (by simp), (hbit 3).trans (by simp),
      (hbit 4).trans (by simp), ?_, ?_, ?_⟩
    · exact extractLsb'_eq_of_getLsbD fun i hi => by
        rw [State.statusWord, Status.getLsbD_word_of_ge _ (by omega)]
        simp [show 5 + i < 8 by omega]
    · exact extractLsb'_eq_of_getLsbD fun i hi => by
        rw [State.statusWord, Status.getLsbD_word_of_ge _ (by omega)]
        simp
    · exact extractLsb'_eq_of_getLsbD fun i hi => by
        rw [State.statusWord, Status.getLsbD_word_of_ge _ (by omega)]
        simp [BitVec.getLsbD_of_ge s.status.result.code (12 + i - 8) (by omega)]
  · have hw := s.busWrite_status w
    simp only [State.clearStatus, and_not_eq_ite] at hw
    exact hw

/-- Settles O47, by the equations of the three register writes. -/
theorem controlAndOperandWrites : Obligations.ControlAndOperandWrites := by
  refine ⟨State.busWrite_ctrl, fun s w hb => ⟨?_, State.busWrite_serial_idle hb w⟩⟩
  rw [← BitVec.setWidth_eq_extractLsb' (by decide)]
  exact State.busWrite_len_idle hb w

/-- Settles O49, by the value of PARAM for every legal MIN_LEN. -/
theorem paramReportsMinLen : Obligations.ParamReportsMinLen := by
  refine ⟨Config.minLen_bounds, fun s => ⟨paramWord, ?_, paramWordOf_toNat Config.minLen_bounds.2⟩, by decide,
    by decide⟩
  have hr : s.busRead Offset.param .word = { s with rdata := some (s.regWord Offset.param) } :=
    State.busRead_reg (by decide) (by decide) s
  rw [State.regWord_param] at hr
  exact congrArg State.rdata hr

end Sys2Proof.Machine
end

section
/-! SUPPORT. What an engine step computes depends on the datapath alone (`sameDatapath`), and no host access changes
that while a command is latched (R55). -/

namespace Sys2Proof.Safety

open Sys2Proof.Machine

theorem sameDatapath.refl (s : State) : sameDatapath s s := ⟨rfl, rfl, rfl, rfl, rfl, rfl, rfl, rfl, rfl, rfl⟩

theorem sameDatapath.trans {s t u : State} (h : sameDatapath s t) (h' : sameDatapath t u) : sameDatapath s u := by
  obtain ⟨hpending, hcrc, hsum, hlen, hserial, hview, hvalid, hresult, hfb, hpow⟩ := h
  obtain ⟨hpending', hcrc', hsum', hlen', hserial', hview', hvalid', hresult', hfb', hpow'⟩ := h'
  exact ⟨hpending.trans hpending', hcrc.trans hcrc', hsum.trans hsum', hlen.trans hlen', hserial.trans hserial',
    hview.trans hview', hvalid.trans hvalid', hresult.trans hresult', hfb.trans hfb', hpow.trans hpow'⟩

section

variable {s t : State} (h : sameDatapath s t)
include h

/-! What is computed from the datapath. -/

theorem sameDatapath.pending : s.pending = t.pending := h.1

theorem sameDatapath.crc : s.crc = t.crc := by
  obtain ⟨-, hcrc, -⟩ := h
  exact hcrc

theorem sameDatapath.sum : s.sum = t.sum := by
  obtain ⟨-, -, hsum, -⟩ := h
  exact hsum

theorem sameDatapath.len : s.len = t.len := by
  obtain ⟨-, -, -, hlen, -⟩ := h
  exact hlen

theorem sameDatapath.serial : s.serial = t.serial := by
  obtain ⟨-, -, -, -, hserial, -⟩ := h
  exact hserial

theorem sameDatapath.fb : s.fb = t.fb := by
  obtain ⟨-, -, -, -, -, -, -, -, hfb, -⟩ := h
  exact hfb

theorem sameDatapath.powerOns : s.powerOns = t.powerOns := by
  obtain ⟨-, -, -, -, -, -, -, -, -, hpow⟩ := h
  exact hpow

theorem sameDatapath.fbByte (i : Nat) : s.fbByte i = t.fbByte i := State.fbByte_congr h.fb h.powerOns i

theorem sameDatapath.fbBytes (i n : Nat) : s.fbBytes i n = t.fbBytes i n := State.fbBytes_congr h.fb h.powerOns i n

theorem sameDatapath.frameView : s.frameView = t.frameView := State.frameView_congr h.fb h.powerOns

theorem sameDatapath.frameSum : s.frameSum = t.frameSum := by
  rw [State.frameSum, State.frameSum, h.len, h.fbBytes]

theorem sameDatapath.frameResidue : s.frameResidue = t.frameResidue := by
  rw [State.frameResidue, State.frameResidue, h.fbByte, h.fbBytes]

/-! The updates a command is made of keep the agreement. -/

theorem sameDatapath.withCrc {c d : Half} (hc : c = d) : sameDatapath { s with crc := c } { t with crc := d } := by
  obtain ⟨hpending, -, hrest⟩ := h
  exact ⟨hpending, hc, hrest⟩

theorem sameDatapath.withSum {x y : Byte} (hx : x = y) : sameDatapath { s with sum := x } { t with sum := y } := by
  obtain ⟨hpending, hcrc, -, hrest⟩ := h
  exact ⟨hpending, hcrc, hx, hrest⟩

theorem sameDatapath.noteReads (i n : Nat) : sameDatapath (s.noteReads i n) (t.noteReads i n) := h

theorem sameDatapath.finish (code : ResultCode) : sameDatapath (s.finish code) (t.finish code) := by
  obtain ⟨-, hcrc, hsum, hlen, hserial, hview, hvalid, -, hmem⟩ := h
  exact ⟨rfl, hcrc, hsum, hlen, hserial, hview, hvalid, rfl, hmem⟩

theorem sameDatapath.reject (code : ResultCode) : sameDatapath (s.reject code) (t.reject code) := by
  obtain ⟨-, hcrc, hsum, hlen, hserial, -, -, -, hmem⟩ := h
  exact ⟨rfl, hcrc, hsum, hlen, hserial, rfl, rfl, rfl, hmem⟩

theorem sameDatapath.accept : sameDatapath s.accept t.accept := by
  have hframe := h.frameView
  obtain ⟨-, hcrc, hsum, hlen, hserial, -, -, -, hmem⟩ := h
  exact ⟨rfl, hcrc, hsum, hlen, hserial, hframe, rfl, rfl, hmem⟩

/-! The commands. Each check of PARSE goes the same way from both states, because what it compares is the same. -/

theorem sameDatapath.parseEnd : sameDatapath s.parseEnd t.parseEnd := by
  rw [State.parseEnd, State.parseEnd, h.len, h.fbByte]
  split
  · exact (h.noteReads _ _).accept
  · exact (h.noteReads _ _).reject _

theorem sameDatapath.parseCrc : sameDatapath s.parseCrc t.parseCrc := by
  rw [State.parseCrc, State.parseCrc, h.frameResidue, h.fbByte]
  have hnext := (h.noteReads 25 (5 + (t.fbByte 27).toNat)).withCrc (rfl : t.frameResidue = t.frameResidue)
  split
  · exact hnext.parseEnd
  · exact hnext.reject _

theorem sameDatapath.parseSum : sameDatapath s.parseSum t.parseSum := by
  rw [State.parseSum, State.parseSum, h.frameSum, h.len, h.fbByte]
  have hnext := (h.noteReads 1 (t.len.toNat - 2)).withSum (rfl : t.frameSum = t.frameSum)
  split
  · exact hnext.parseCrc
  · exact hnext.reject _

theorem sameDatapath.parseStart : sameDatapath s.parseStart t.parseStart := by
  rw [State.parseStart, State.parseStart, h.fbByte]
  split
  · exact (h.noteReads 0 1).parseSum
  · exact (h.noteReads 0 1).reject _

theorem sameDatapath.parseWith (minLen : Nat) : sameDatapath (s.parseWith minLen) (t.parseWith minLen) := by
  rw [State.parseWith, State.parseWith, h.len]
  split
  · exact h.reject _
  · split
    · exact h.reject _
    · exact h.parseStart

theorem sameDatapath.buildWith (template : Nat → Byte) :
    sameDatapath (s.buildWith template) (t.buildWith template) := by
  obtain ⟨-, -, -, -, hserial, hview, hvalid, -, hfb, hpow⟩ := h
  simp [sameDatapath, hserial, hview, hvalid, hfb, hpow]

/-- A command computes the same from states that agree on the datapath (spec/20_memory.md R52). -/
theorem sameDatapath.exec_next (i : Instr) :
    ∃ s' t', exec i s = .next s' ∧ exec i t = .next t' ∧ sameDatapath s' t' := by
  cases i with
  | crcSeed imm16 => exact ⟨_, _, rfl, rfl, (h.withCrc rfl).finish _⟩
  | crcByte imm8 => exact ⟨_, _, rfl, rfl, (h.withCrc (by rw [h.crc])).finish _⟩
  | crcRange start count =>
    refine ⟨_, _, rfl, rfl, ?_⟩
    split
    · exact ((h.noteReads start count).withCrc (by rw [h.crc, h.fbBytes])).finish _
    · exact h.finish _
  | sumSeed imm8 => exact ⟨_, _, rfl, rfl, (h.withSum rfl).finish _⟩
  | sumByte imm8 => exact ⟨_, _, rfl, rfl, (h.withSum (by rw [h.sum])).finish _⟩
  | sumRange start count =>
    refine ⟨_, _, rfl, rfl, ?_⟩
    split
    · exact ((h.noteReads start count).withSum (by rw [h.sum, h.fbBytes])).finish _
    · exact h.finish _
  | build => exact ⟨_, _, rfl, rfl, h.buildWith _⟩
  | parse => exact ⟨_, _, rfl, rfl, h.parseWith _⟩

/-- The engine step computes the same from states that agree on the datapath: the latched word is part of it. -/
theorem sameDatapath.engineStep_next {s' : State} (hs : engineStep s = .next s') :
    ∃ t', engineStep t = .next t' ∧ sameDatapath s' t' := by
  obtain ⟨w, hp, ⟨i, hd, he⟩ | ⟨⟨e, hd⟩, rfl⟩⟩ := engineStep_next_cases hs
  · obtain ⟨s'', t', hs'', ht', hst⟩ := h.exec_next i
    obtain rfl : s'' = s' := Host.Outcome.next.inj (hs''.symm.trans he)
    exact ⟨t', by simpa only [engineStep, ← h.pending, hp, hd] using ht', hst⟩
  · exact ⟨t.illegal, by simp only [engineStep, ← h.pending, hp, hd], h.finish _⟩

end

/-! The host's accesses while a command is latched. -/

theorem sameDatapath_of_quietStep {s t : State} (h : QuietStep s t) : sameDatapath s t := by
  rw [h.same]
  exact .refl s

/-- While BUSY = 1 an access reaches no register of the datapath: the writes that would are overruns (R23, R99). -/
theorem sameDatapath_hostAct {s : State} (hb : s.status.busy = true) (op : HostOp) :
    sameDatapath s (State.hostAct op s) ∧ (State.hostAct op s).status.busy = true := by
  have hact : State.hostAct op s = State.hostStep { s with hostOps := op :: s.hostOps } := rfl
  rw [hact]
  obtain h | ⟨v, rest, -, hidle, -⟩ | ⟨v, rest, -, h⟩ | ⟨v, rest, -, h⟩ | ⟨v, rest, -, hidle, -⟩ |
    ⟨v, rest, -, hidle, -⟩ | ⟨a, z, v, rest, -, hidle, -⟩ :=
    State.hostStep_effect { s with hostOps := op :: s.hostOps }
  · have hquiet := sameDatapath_of_quietStep h
    exact ⟨hquiet, by rw [h.status]; exact hb⟩
  · exact absurd (hb.symm.trans hidle) (by decide)
  · rw [h]; exact ⟨.refl s, hb⟩
  · rw [h]; exact ⟨.refl s, hb⟩
  · exact absurd (hb.symm.trans hidle) (by decide)
  · exact absurd (hb.symm.trans hidle) (by decide)
  · exact absurd (hb.symm.trans hidle) (by decide)

theorem sameDatapath_hostActs {s : State} (hb : s.status.busy = true) (ops : List HostOp) :
    sameDatapath s (ops.foldl (fun st op => State.hostAct op st) s) ∧
      (ops.foldl (fun st op => State.hostAct op st) s).status.busy = true := by
  induction ops generalizing s with
  | nil => exact ⟨.refl s, hb⟩
  | cons op ops ih =>
    obtain ⟨hop, hbusy⟩ := sameDatapath_hostAct hb op
    obtain ⟨hops, hbusys⟩ := ih hbusy
    exact ⟨hop.trans hops, hbusys⟩

/-- Settles O56, by induction on the accesses: they leave the datapath, and the engine step depends on nothing else. -/
theorem hostCannotChangeLatchedCommand : Obligations.HostCannotChangeLatchedCommand := by
  intro s ops hb
  obtain ⟨hsame, hbusy⟩ := sameDatapath_hostActs hb ops
  exact ⟨hsame, hbusy, fun _ ht => hsame.engineStep_next ht⟩

end Sys2Proof.Safety
end

section
/-! SUPPORT. The address map: which accesses are errors, region by region (R42, R43, R46). -/

namespace Sys2Proof.Machine

/-- A list of offsets holds an offset exactly when the list of their numbers holds its number. -/
theorem Offset.mem_iff_toNat (a : Offset) (l : List Offset) : a ∈ l ↔ a.toNat ∈ l.map BitVec.toNat :=
  (List.mem_map_of_injective BitVec.toNat_injective).symm

theorem mem_regOffsets_iff (a : Offset) : a ∈ regOffsets ↔
    a.toNat ∈ [0x000, 0x004, 0x008, 0x00C, 0x010, 0x014, 0x018, 0x01C, 0x020, 0x024, 0x028, 0x02C, 0x030] :=
  Offset.mem_iff_toNat a regOffsets

theorem mem_readOnlyOffsets_iff (a : Offset) : a ∈ readOnlyOffsets ↔
    a.toNat ∈ [0x00C, 0x010, 0x01C, 0x020, 0x024, 0x028, 0x02C, 0x030] :=
  Offset.mem_iff_toNat a readOnlyOffsets

theorem eq_cmd_iff (a : Offset) : a = Offset.cmd ↔ a.toNat = 0x000 := BitVec.toNat_inj.symm

/-- Which accesses to the register region are legal (R42). -/
theorem accessError_reg_iff {a : Offset} (ha : inRegRegion a = true) (z : Size) (w : Bool) :
    accessError a z w = false ↔
      z = .word ∧ aligned a .word = true ∧ a ∈ regOffsets ∧ (w = false → a ≠ Offset.cmd) ∧
        (w = true → a ∉ readOnlyOffsets) := by
  have hres : inReserved a = false := by
    simp only [inReserved, inRegRegion, Bool.or_eq_false_iff, Bool.and_eq_false_iff, decide_eq_true_eq,
      decide_eq_false_iff_not] at ha ⊢
    omega
  cases z with
  | word =>
    cases hal : aligned a .word with
    | false => simp [accessError, hal]
    | true => cases w <;> simp [accessError, ha, hres, hal]
  | byte => simp [accessError, ha]
  | half => simp [accessError, ha]
  | reserved => simp [accessError]

/-- Which accesses to the FB window are legal (R43). -/
theorem accessError_fb_iff {a : Offset} (ha : inFbWindow a = true) (z : Size) (w : Bool) :
    accessError a z w = false ↔ z ≠ .reserved ∧ aligned a z = true := by
  simp only [inFbWindow, Bool.and_eq_true, decide_eq_true_eq] at ha
  have hres : inReserved a = false := by
    simp only [inReserved, Bool.or_eq_false_iff, Bool.and_eq_false_iff, decide_eq_false_iff_not]
    omega
  have hreg : inRegRegion a = false := by
    simp only [inRegRegion, decide_eq_false_iff_not]
    omega
  have hcmd : a ≠ Offset.cmd := by
    rw [ne_eq, eq_cmd_iff]
    omega
  have hro : a ∉ readOnlyOffsets := by
    rw [mem_readOnlyOffsets_iff]
    simp only [List.mem_cons, List.not_mem_nil, or_false]
    omega
  simp [accessError, hres, hreg, hcmd, hro]

/-- Settles O41, by the two regions' lists of errors, with offsets compared as numbers. -/
theorem legalAccesses : Obligations.LegalAccesses := by
  intro a z w
  refine ⟨fun ha => ?_, fun hlo hhi => ⟨?_, fun he => ?_⟩⟩
  · have hreg : inRegRegion a = true := by
      simp only [inRegRegion, decide_eq_true_eq]
      omega
    rw [accessError_reg_iff hreg, mem_regOffsets_iff, mem_readOnlyOffsets_iff, ne_eq, eq_cmd_iff]
    simp [aligned, Size.bytes]
  · rw [accessError_fb_iff (by simp [inFbWindow, hlo, hhi])]
    cases z with
    | byte => simp [aligned, Size.bytes, Nat.mod_one]
    | half => simp [aligned, Size.bytes]
    | word => simp [aligned, Size.bytes]
    | reserved => simp
  · have hf : inFbWindow a = true := by simp [inFbWindow, hlo, hhi]
    have hfit : a.toNat - 0x200 + z.bytes ≤ 512 := fbIndex_add_le he hf
    omega

/-- Settles O42: a legal access is outside the reserved ranges, and in the register region it is an aligned word, which
0x031..0x033 are not. -/
theorem otherOffsetsAreErrors : Obligations.OtherOffsetsAreErrors := by
  intro a z w ha
  by_contra hne
  have he : accessError a z w = false := by simpa using hne
  have hres := accessError_false_not_reserved he
  simp only [inReserved, Bool.or_eq_false_iff, Bool.and_eq_false_iff, decide_eq_false_iff_not] at hres
  have hz : z = .word := accessError_false_word he (by simp only [inRegRegion, decide_eq_true_eq]; omega)
  have halign : a.toNat % 4 = 0 := by
    have := (accessError_false he).2
    rwa [hz] at this
  omega

/-- Settles O43, by the equations of a read and a write that are errors. -/
theorem accessErrorSetsAerrOnly : Obligations.AccessErrorSetsAerrOnly := by
  refine ⟨fun a z s he => ?_, fun a z v s he => ?_⟩
  · rw [State.busRead_error he]
    exact ⟨rfl, rfl⟩
  · rw [State.busWrite_error he]
    exact ⟨rfl, rfl⟩

end Sys2Proof.Machine
end

section
/-! SUPPORT. What a legal read returns and what a legal FB write stores (R44, R45, R48). -/

namespace Sys2Proof.Machine

/-! The FB window. -/

section

variable {a : Offset} {z : Size} {i : Nat} (ha : a.toNat = 0x200 + i)
include ha

/-- A legal read of FB[i] (R44). -/
theorem State.busRead_fb (he : accessError a z false = false) (s : State) :
    s.busRead a z = { s.noteReads i z.bytes with rdata := some (leWord (s.fbBytes i z.bytes)) } := by
  simp [State.busRead, he, inFbWindow_of_legal he (by omega), fbIndex_eq ha]

/-- A legal write to FB[i] while idle (R45). -/
theorem State.busWrite_fb_idle (he : accessError a z true = false) {s : State} (hb : s.status.busy = false)
    (v : Word) : s.busWrite a z v = { s.storeFb i (wordBytes v z.bytes) with rdata := none } := by
  rw [State.busWrite_fb he (inFbWindow_of_legal he (by omega)), State.unlessBusy_idle hb, fbIndex_eq ha]

end

theorem Size.bytes_le_four {z : Size} (h : z ≠ .reserved) : z.bytes ≤ 4 := by cases z <;> simp [Size.bytes] at h ⊢

/-- Byte `k` of the little-endian word of `n` bytes of FB is FB[i + k], and 0 from byte `n` up (R44, R48). -/
theorem State.leWord_fbBytes_byte (s : State) (i : Nat) {n : Nat} (hn : n ≤ 4) (k : Nat) :
    (leWord (s.fbBytes i n)).extractLsb' (8 * k) 8 = if k < n then s.fbByte (i + k) else 0 := by
  rw [leWord_byte _ (by simpa using hn)]
  split
  · next hk => simp [State.fbBytes, fbRange, hk]
  · rw [List.getElem?_eq_none (by simp; omega)]
    rfl

/-- Reading FB[i .. i + n - 1] is on record exactly when one of these bytes was never written (R115, log entry 5). -/
theorem State.noteReads_unwrittenRead_iff (s : State) (i n : Nat) :
    (s.noteReads i n).unwrittenRead = true ↔
      s.unwrittenRead = true ∨ ∃ k, k < n ∧ s.fbWritten (i + k) = false := by
  simp [fbRange, List.mem_range']

/-- A written byte is byte `k` of the data (R45). -/
theorem State.storeFb_lookup_inside (s : State) (i : Nat) (v : Word) {n k : Nat} (h : k < n) :
    (s.storeFb i (wordBytes v n)).fb.lookup (i + k) = some (v.extractLsb' (8 * k) 8) := by
  rw [State.storeFb_fb, Memory.lookup_writeBytes_inside _ _ _ (by simpa using h)]
  simp [wordBytes, wordByte]

/-- Settles O45, by the equations of a legal FB read and write and the bytes they carry. -/
theorem fbWritesAreLittleEndian : Obligations.FbWritesAreLittleEndian := by
  refine ⟨fun s a z v i he ha hb => ?_, fun s a z i he ha => ?_, fun s hb => ?_⟩
  · rw [State.busWrite_fb_idle ha he hb]
    have houtside : ∀ j, j < i ∨ i + z.bytes ≤ j →
        (s.storeFb i (wordBytes v z.bytes)).fb.lookup j = s.fb.lookup j := fun j hj => by
      rw [State.storeFb_fb, Memory.lookup_writeBytes_outside _ _ _ (by simpa using hj)]
    refine ⟨fun k hk => s.storeFb_lookup_inside i v hk, fun j hj => ⟨houtside j hj, ?_⟩, rfl⟩
    exact congrArg (·.getD (Config.powerOnByte s.powerOns j)) (houtside j hj)
  · rw [State.busRead_fb ha he]
    refine ⟨_, rfl, fun k hk => ?_⟩
    rw [State.leWord_fbBytes_byte s i (Size.bytes_le_four (accessError_false he).1), if_pos hk]
  · rw [State.busWrite_fb_idle (i := 4) (by decide) (by decide) hb]
    have hbyte : ∀ k < 4, (s.storeFb 4 (wordBytes 0x44332211 4)).fbByte (4 + k) =
        (0x44332211 : Word).extractLsb' (8 * k) 8 := fun k hk => by
      rw [State.fbByte, State.storeFb_lookup_inside s 4 _ hk, Option.getD_some]
    exact congrArg₂ List.cons (hbyte 0 (by decide)) (congrArg₂ List.cons (hbyte 1 (by decide))
      (congrArg₂ List.cons (hbyte 2 (by decide)) (congrArg₂ List.cons (hbyte 3 (by decide)) rfl)))

/-! The registers. -/

/-- What a legal read of a register returns (R44). -/
theorem State.busRead_reg_rdata {a : Offset} {z : Size} (he : accessError a z false = false) (ha : a.toNat < 0x200)
    (s : State) : (s.busRead a z).rdata = some (s.regWord a) := by
  have hf : inFbWindow a = false := by simp [inFbWindow, ha]
  rw [State.busRead_reg he hf]

/-- VIEW0 as a number (R26). -/
theorem View.word0_eq_ofNat (v : View) :
    v.word0 = BitVec.ofNat 32 (v.unit.toNat + v.func.toNat * 0x100 + v.plen.toNat * 0x10000) := by
  have hu := v.unit.isLt
  have hf := v.func.isLt
  have hp := v.plen.isLt
  have hlow : v.unit.toNat ||| 2 ^ 8 * v.func.toNat = 2 ^ 8 * v.func.toNat + v.unit.toNat := by
    exact (Nat.or_comm _ _).trans (Nat.two_pow_add_eq_or_of_lt hu _).symm
  have hall : (2 ^ 8 * v.func.toNat + v.unit.toNat) ||| 2 ^ 16 * v.plen.toNat =
      2 ^ 16 * v.plen.toNat + (2 ^ 8 * v.func.toNat + v.unit.toNat) := by
    exact (Nat.or_comm _ _).trans (Nat.two_pow_add_eq_or_of_lt (by omega) _).symm
  apply BitVec.eq_of_toNat_eq
  simp only [View.word0, BitVec.toNat_or, BitVec.toNat_shiftLeft, BitVec.toNat_setWidth, Nat.shiftLeft_eq,
    BitVec.toNat_ofNat]
  rw [show v.unit.toNat % 2 ^ 32 = v.unit.toNat by omega,
    show v.func.toNat % 2 ^ 32 * 2 ^ 8 % 2 ^ 32 = 2 ^ 8 * v.func.toNat by omega,
    show v.plen.toNat % 2 ^ 32 * 2 ^ 16 % 2 ^ 32 = 2 ^ 16 * v.plen.toNat by omega, hlow, hall]
  omega

/-- A legal read changes the port's `rdata` and the record of unwritten reads at most, the record only for FB (R44). -/
theorem State.busRead_legal_frame {a : Offset} {z : Size} (he : accessError a z false = false) (s : State) :
    s.busRead a z = { s with unwrittenRead := (s.busRead a z).unwrittenRead, rdata := (s.busRead a z).rdata } ∧
      (a.toNat < 0x200 → (s.busRead a z).unwrittenRead = s.unwrittenRead) := by
  obtain ⟨he', -⟩ | ⟨-, hf, h⟩ | ⟨-, -, h⟩ := s.busRead_cases a z
  · rw [he] at he'; cases he'
  · rw [h]
    refine ⟨rfl, fun ha => ?_⟩
    simp only [inFbWindow, Bool.and_eq_true, decide_eq_true_eq] at hf
    omega
  · rw [h]
    exact ⟨rfl, fun _ => rfl⟩

/-- Settles O44: the frame of a legal read, then the register at each offset, then the bytes of FB. -/
theorem legalReadsReturnAndChangeNothing : Obligations.LegalReadsReturnAndChangeNothing := by
  refine ⟨fun s a z he => State.busRead_error he s, fun s a z he => ?_⟩
  have hread : ∀ b : Offset, a = b → b.toNat < 0x200 → (s.busRead a z).rdata = some (s.regWord b) := by
    rintro b rfl hb
    exact State.busRead_reg_rdata he hb s
  obtain ⟨hframe, hrecord⟩ := State.busRead_legal_frame he s
  refine ⟨hframe, hrecord, fun ha => ?_, fun ha => ?_, fun ha => ?_, fun ha => ?_, fun ha => ?_, fun ha => ?_,
    fun ha => ?_, fun ha => ?_, fun ha => ?_, fun ha => ?_, fun ha => ?_, fun ha => ?_, fun i ha => ⟨?_, ?_⟩⟩
  · rw [hread Offset.status ha (by decide), State.regWord_status]
  · rw [hread Offset.ctrl ha (by decide), State.regWord_ctrl]; rfl
  · rw [hread Offset.crc ha (by decide), State.regWord_crc, BitVec.ofNat_toNat]
  · rw [hread Offset.sum ha (by decide), State.regWord_sum, BitVec.ofNat_toNat]
  · rw [hread Offset.len ha (by decide), State.regWord_len, BitVec.ofNat_toNat]
  · rw [hread Offset.serial ha (by decide), State.regWord_serial]
  · rw [hread Offset.view0 ha (by decide), State.regWord_view0, View.word0_eq_ofNat]
  · rw [hread Offset.view1 ha (by decide), State.regWord_view1, BitVec.ofNat_toNat]
  · rw [hread Offset.respSn ha (by decide), State.regWord_respSn]
  · rw [hread Offset.respTot ha (by decide), State.regWord_respTot]
  · rw [hread Offset.respDay ha (by decide), State.regWord_respDay]
  · rw [hread Offset.param ha (by decide), State.regWord_param]
  · rw [State.busRead_fb ha he]
    exact s.noteReads_unwrittenRead_iff i z.bytes
  · rw [State.busRead_fb ha he]
    exact ⟨_, rfl, s.leWord_fbBytes_byte i (Size.bytes_le_four (accessError_false he).1)⟩

end Sys2Proof.Machine
end

section
/-! SUPPORT. A command word as a number: the match of its row, and below it the value of its operands (R59, R60). From
it the two round trips, and what the decoder and the assembler accept (R60 to R66). -/

namespace Sys2Proof

/-! The operands as one number. -/

/-- The operand bits of a command's word as a number, for operands that fit their fields (R59). -/
def Instr.operandValue : Instr → Nat
  | .crcSeed imm16 => imm16.toNat
  | .crcByte imm8 | .sumSeed imm8 | .sumByte imm8 => imm8.toNat
  | .crcRange start count | .sumRange start count => 2 ^ 12 * start + count
  | .build | .parse => 0

@[simp] theorem Instr.wellFormed_crcRange (a n : Nat) :
    (Instr.crcRange a n).wellFormed = true ↔ a ≤ 4095 ∧ n ≤ 4095 := by
  simp [Instr.wellFormed, fitsRangeField]

@[simp] theorem Instr.wellFormed_sumRange (a n : Nat) :
    (Instr.sumRange a n).wellFormed = true ↔ a ≤ 4095 ∧ n ≤ 4095 := by
  simp [Instr.wellFormed, fitsRangeField]

/-- The two fields of the RNG format as one number (R59). -/
theorem rangeBits_toNat {a n : Nat} (ha : a ≤ 4095) (hn : n ≤ 4095) :
    (BitVec.ofNat 32 a <<< 12 ||| BitVec.ofNat 32 n).toNat = 2 ^ 12 * a + n := by
  have hstart : (BitVec.ofNat 32 a <<< 12).toNat = 2 ^ 12 * a := by
    simp only [BitVec.toNat_shiftLeft, BitVec.toNat_ofNat, Nat.shiftLeft_eq]
    omega
  have hcount : (BitVec.ofNat 32 n).toNat = n := by
    rw [BitVec.toNat_ofNat]
    omega
  rw [BitVec.toNat_or, hstart, hcount]
  exact (Nat.two_pow_add_eq_or_of_lt (by omega) a).symm

theorem Instr.operandBits_toNat {i : Instr} (h : i.wellFormed = true) : i.operandBits.toNat = i.operandValue := by
  cases i with
  | crcSeed imm16 => exact BitVec.toNat_setWidth_of_le (by decide)
  | crcByte imm8 => exact BitVec.toNat_setWidth_of_le (by decide)
  | sumSeed imm8 => exact BitVec.toNat_setWidth_of_le (by decide)
  | sumByte imm8 => exact BitVec.toNat_setWidth_of_le (by decide)
  | crcRange a n =>
    obtain ⟨ha, hn⟩ := (Instr.wellFormed_crcRange a n).mp h
    exact rangeBits_toNat ha hn
  | sumRange a n =>
    obtain ⟨ha, hn⟩ := (Instr.wellFormed_sumRange a n).mp h
    exact rangeBits_toNat ha hn
  | build => rfl
  | parse => rfl

/-- The operands of a well-formed command stay below its row's fixed bits. -/
theorem Instr.operandValue_lt {i : Instr} (h : i.wellFormed = true) :
    i.operandValue < 2 ^ i.opcode.format.operandWidth := by
  cases i with
  | crcSeed imm16 => exact imm16.isLt
  | crcByte imm8 => exact imm8.isLt
  | sumSeed imm8 => exact imm8.isLt
  | sumByte imm8 => exact imm8.isLt
  | crcRange a n =>
    obtain ⟨ha, hn⟩ := (Instr.wellFormed_crcRange a n).mp h
    simp only [Instr.operandValue, Instr.opcode, Opcode.format, Format.operandWidth]
    omega
  | sumRange a n =>
    obtain ⟨ha, hn⟩ := (Instr.wellFormed_sumRange a n).mp h
    simp only [Instr.operandValue, Instr.opcode, Opcode.format, Format.operandWidth]
    omega
  | build => exact Nat.one_pos
  | parse => exact Nat.one_pos

/-- A row's match has no operand bit set. -/
theorem Opcode.pattern_eq_mul (op : Opcode) :
    op.pattern.toNat = 2 ^ op.format.operandWidth * (op.pattern.toNat / 2 ^ op.format.operandWidth) := by
  cases op <;> rfl

/-- The word of a well-formed command is its row's match plus its operands (R59, R66). -/
theorem encode_toNat {i : Instr} (h : i.wellFormed = true) :
    (encode i).toNat = i.opcode.pattern.toNat + i.operandValue := by
  rw [encode, BitVec.toNat_or, Instr.operandBits_toNat h, i.opcode.pattern_eq_mul]
  exact (Nat.two_pow_add_eq_or_of_lt (Instr.operandValue_lt h) _).symm

/-! What a word is read as. -/

/-- The fields of the RNG format hold the low 24 bits of a word. -/
theorem rangeFields_eq (w : Word) : 2 ^ 12 * startField w + countField w = w.toNat % 2 ^ 24 := by
  rw [startField_eq, countField_eq]
  omega

/-- The operands read from a word are its bits below the fixed ones (R61). -/
theorem Opcode.instr_operandValue (op : Opcode) (w : Word) :
    (op.instr w).operandValue = w.toNat % 2 ^ op.format.operandWidth := by
  cases op with
  | crcSeed => exact imm16Field_toNat w
  | crcByte => exact imm8Field_toNat w
  | sumSeed => exact imm8Field_toNat w
  | sumByte => exact imm8Field_toNat w
  | crcRange => exact rangeFields_eq w
  | sumRange => exact rangeFields_eq w
  | build => exact (Nat.mod_one _).symm
  | parse => exact (Nat.mod_one _).symm

theorem Opcode.instr_wellFormed (op : Opcode) (w : Word) : (op.instr w).wellFormed = true := by
  cases op with
  | crcRange => exact (Instr.wellFormed_crcRange _ _).mpr ⟨startField_le w, countField_le w⟩
  | sumRange => exact (Instr.wellFormed_sumRange _ _).mpr ⟨startField_le w, countField_le w⟩
  | _ => rfl

/-- The two fields of the RNG format are read back from their value. -/
theorem rangeFields_of_value {w : Word} {a n : Nat} (hn : n ≤ 4095) (hv : w.toNat % 2 ^ 24 = 2 ^ 12 * a + n) :
    startField w = a ∧ countField w = n := by
  rw [startField_eq, countField_eq]
  omega

/-- A well-formed command is what its opcode reads from a word with its operands. -/
theorem Instr.opcode_instr_eq {i : Instr} {w : Word} (h : i.wellFormed = true)
    (hv : w.toNat % 2 ^ i.opcode.format.operandWidth = i.operandValue) : i.opcode.instr w = i := by
  cases i with
  | crcSeed imm16 => exact congrArg Instr.crcSeed (BitVec.eq_of_toNat_eq ((imm16Field_toNat w).trans hv))
  | crcByte imm8 => exact congrArg Instr.crcByte (BitVec.eq_of_toNat_eq ((imm8Field_toNat w).trans hv))
  | sumSeed imm8 => exact congrArg Instr.sumSeed (BitVec.eq_of_toNat_eq ((imm8Field_toNat w).trans hv))
  | sumByte imm8 => exact congrArg Instr.sumByte (BitVec.eq_of_toNat_eq ((imm8Field_toNat w).trans hv))
  | crcRange a n =>
    obtain ⟨ha, hn⟩ := rangeFields_of_value ((Instr.wellFormed_crcRange a n).mp h).2 hv
    exact congrArg₂ Instr.crcRange ha hn
  | sumRange a n =>
    obtain ⟨ha, hn⟩ := rangeFields_of_value ((Instr.wellFormed_sumRange a n).mp h).2 hv
    exact congrArg₂ Instr.sumRange ha hn
  | build => rfl
  | parse => rfl

/-- `(w & mask) = match` (R60). -/
theorem Opcode.fits_iff_mask {op : Opcode} {w : Word} : op.fits w = true ↔ w &&& op.mask = op.pattern := beq_iff_eq

/-- A word with its row's fixed bits has that row's opcode, because every mask covers bits 31..24 (R60). -/
theorem Opcode.opField_of_fits {op : Opcode} {w : Word} (h : op.fits w = true) : opField w = op.code := by
  have hdiv := (op.fits_iff w).mp h
  apply BitVec.eq_of_toNat_eq
  rw [opField_toNat]
  cases op <;>
    (simp only [Opcode.format, Format.operandWidth, Opcode.pattern, Opcode.code, BitVec.reduceToNat] at hdiv ⊢; omega)

/-- A word decodes to a command exactly when it has the fixed bits of the command's row and the command's operands (R60,
R61). -/
theorem decode_ok_iff {w : Word} {i : Instr} :
    decode w = .ok i ↔ w &&& i.opcode.mask = i.opcode.pattern ∧ i.opcode.instr w = i := by
  rw [decode_eq_ok_iff]
  constructor
  · rintro ⟨op, -, hfits, rfl⟩
    rw [Opcode.instr_opcode]
    exact ⟨Opcode.fits_iff_mask.mp hfits, rfl⟩
  · rintro ⟨hmask, hinstr⟩
    have hfits : i.opcode.fits w = true := Opcode.fits_iff_mask.mpr hmask
    exact ⟨i.opcode, by rw [Opcode.opField_of_fits hfits, Opcode.ofCode_code], hfits, hinstr⟩

theorem mask_of_decode {w : Word} {i : Instr} (h : decode w = .ok i) : w &&& i.opcode.mask = i.opcode.pattern :=
  (decode_ok_iff.mp h).1

theorem instr_of_decode {w : Word} {i : Instr} (h : decode w = .ok i) : i.opcode.instr w = i := (decode_ok_iff.mp h).2

theorem decode_of_mask {op : Opcode} {w : Word} (h : w &&& op.mask = op.pattern) : decode w = .ok (op.instr w) := by
  rw [decode_ok_iff, Opcode.instr_opcode]
  exact ⟨h, rfl⟩

theorem operandValue_of_decode {w : Word} {i : Instr} (h : decode w = .ok i) :
    i.operandValue = w.toNat % 2 ^ i.opcode.format.operandWidth := by
  rw [← Opcode.instr_operandValue, instr_of_decode h]

theorem wellFormed_of_decode {w : Word} {i : Instr} (h : decode w = .ok i) : i.wellFormed = true :=
  instr_of_decode h ▸ i.opcode.instr_wellFormed w

/-! The two round trips. -/

theorem decode_encode {i : Instr} (h : i.wellFormed = true) : decode (encode i) = .ok i := by
  have hlt := Instr.operandValue_lt h
  have hfits : i.opcode.fits (encode i) = true := by
    rw [Opcode.fits_iff, encode_toNat h, i.opcode.pattern_eq_mul, Nat.mul_add_div (Nat.two_pow_pos _),
      Nat.div_eq_of_lt hlt, Nat.add_zero, Nat.mul_div_cancel_left _ (Nat.two_pow_pos _)]
  have hvalue : (encode i).toNat % 2 ^ i.opcode.format.operandWidth = i.operandValue := by
    rw [encode_toNat h, i.opcode.pattern_eq_mul, Nat.mul_add_mod, Nat.mod_eq_of_lt hlt]
  exact decode_ok_iff.mpr ⟨Opcode.fits_iff_mask.mp hfits, Instr.opcode_instr_eq h hvalue⟩

theorem encode_decode {w : Word} {i : Instr} (h : decode w = .ok i) : encode i = w := by
  have hhigh := (i.opcode.fits_iff w).mp (Opcode.fits_iff_mask.mpr (mask_of_decode h))
  apply BitVec.eq_of_toNat_eq
  rw [encode_toNat (wellFormed_of_decode h), i.opcode.pattern_eq_mul, ← hhigh, operandValue_of_decode h]
  exact Nat.div_add_mod w.toNat _

/-- Settles O2: a word is its row's match plus the operands, so both are read back from it. -/
theorem decodeOfEncode : Obligations.DecodeOfEncode := fun _ => decode_encode

/-- Settles O3: the fixed bits and the operands read from a word together are the whole word. -/
theorem encodeOfDecode : Obligations.EncodeOfDecode := fun _ _ h => ⟨wellFormed_of_decode h, encode_decode h⟩

/-- Settles O1, by decoding each word. -/
theorem sampleWordsDecode : Obligations.SampleWordsDecode := ⟨rfl, rfl, rfl, rfl, rfl, rfl, rfl, rfl⟩

/-- Settles O5: an operand of one field is the whole operand value, and the RNG fields are read one by one. -/
theorem operandsAreTheirBitRanges : Obligations.OperandsAreTheirBitRanges := by
  intro w
  refine ⟨fun imm16 h => operandValue_of_decode h, fun imm8 h => ?_, fun start count h => ?_⟩
  · obtain h | h | h := h
    · exact operandValue_of_decode h
    · exact operandValue_of_decode h
    · exact operandValue_of_decode h
  · have hfields : startField w = start ∧ countField w = count := by
      obtain h | h := h
      · exact Instr.crcRange.inj (instr_of_decode h)
      · exact Instr.sumRange.inj (instr_of_decode h)
    exact ⟨hfields.1 ▸ startField_eq w, hfields.2 ▸ countField_eq w⟩

/-! The assembler (R66). -/

/-- The operands a command is written with (R66). -/
def Instr.operands : Instr → List Nat
  | .crcSeed imm16 => [imm16.toNat]
  | .crcByte imm8 | .sumSeed imm8 | .sumByte imm8 => [imm8.toNat]
  | .crcRange start count | .sumRange start count => [start, count]
  | .build | .parse => []

/-- The check of one immediate operand, `max` the largest that fits, takes the value of every field. -/
theorem assemble_immediate {k : Nat} (x : BitVec k) (command : BitVec k → Instr) {max : Nat}
    (hmax : 2 ^ k = max + 1) :
    (if x.toNat ≤ max then some (command (BitVec.ofNat k x.toNat)) else none) = some (command x) := by
  have hle : x.toNat ≤ max := by
    have := x.isLt
    omega
  rw [if_pos hle, BitVec.ofNat_toNat, BitVec.setWidth_eq]

/-- Every well-formed command is what its mnemonic and operands assemble to. -/
theorem Opcode.assemble_operands {i : Instr} (h : i.wellFormed = true) : i.opcode.assemble i.operands = some i := by
  cases i with
  | crcSeed imm16 => exact assemble_immediate imm16 Instr.crcSeed rfl
  | crcByte imm8 => exact assemble_immediate imm8 Instr.crcByte rfl
  | sumSeed imm8 => exact assemble_immediate imm8 Instr.sumSeed rfl
  | sumByte imm8 => exact assemble_immediate imm8 Instr.sumByte rfl
  | crcRange a n => exact if_pos ((Instr.wellFormed_crcRange a n).mp h)
  | sumRange a n => exact if_pos ((Instr.wellFormed_sumRange a n).mp h)
  | build => rfl
  | parse => rfl

/-- What the assembler gives is a well-formed command of the opcode it was asked for. -/
theorem Opcode.assemble_some {op : Opcode} {operands : List Nat} {i : Instr} (h : op.assemble operands = some i) :
    i.opcode = op ∧ i.wellFormed = true := by
  unfold Opcode.assemble at h
  split at h
  case h_1 | h_2 | h_4 | h_5 =>
    obtain ⟨-, ⟨⟩⟩ := Option.ite_none_right_eq_some.mp h
    exact ⟨rfl, rfl⟩
  case h_3 | h_6 =>
    obtain ⟨hfit, ⟨⟩⟩ := Option.ite_none_right_eq_some.mp h
    exact ⟨rfl, by simpa using hfit⟩
  case h_7 | h_8 =>
    cases h
    exact ⟨rfl, rfl⟩
  case h_9 => cases h

/-- A RNG mnemonic takes two operands that fit their fields, and no others. -/
theorem Opcode.assemble_range_isSome {op : Opcode} (hop : op = .crcRange ∨ op = .sumRange) (a n : Nat) :
    (op.assemble [a, n]).isSome ↔ a ≤ 4095 ∧ n ≤ 4095 := by
  obtain rfl | rfl := hop
  · exact Option.isSome_ite
  · exact Option.isSome_ite

/-- Settles O9: the operand checks of each mnemonic, then what they accept and that every well-formed command passes. -/
theorem assemblerChecksOperandFields : Obligations.AssemblerChecksOperandFields := by
  refine ⟨fun _ => rfl, fun _ => rfl, fun _ => rfl, fun _ => rfl,
    fun op a n hop => Opcode.assemble_range_isSome hop a n, fun op operands i h => ?_,
    fun i h => ⟨i.operands, Opcode.assemble_operands h⟩⟩
  obtain ⟨hop, hwf⟩ := Opcode.assemble_some h
  exact ⟨hop, hwf, decode_encode hwf⟩

end Sys2Proof
end

section
/-! SUPPORT. The engine step word by word: which words are illegal, and what a legal one performs (R58, R60 to R64). -/

namespace Sys2Proof

theorem Opcode.ofCode_eq_none_iff (b : Byte) : Opcode.ofCode b = none ↔ b.toNat = 0 ∨ 9 ≤ b.toNat := by
  unfold Opcode.ofCode
  split
  case h_9 =>
    simp only [imp_false, true_iff] at *
    omega
  all_goals
    simp only [reduceCtorEq, false_iff]
    omega

theorem decode_eq_reservedOpcode_iff (w : Word) :
    decode w = .error .reservedOpcode ↔ Opcode.ofCode (opField w) = none := by
  unfold decode
  split
  · next hnone => simp [hnone]
  · next op hop =>
    rw [hop]
    split <;> simp

theorem opField_of_decode {w : Word} {i : Instr} (h : decode w = .ok i) : opField w = i.opcode.code :=
  Opcode.opField_of_fits (Opcode.fits_iff_mask.mpr (mask_of_decode h))

/-- The reserved bits of a legal word, those between the opcode and the operands, are 0 (R59, R62). -/
theorem Opcode.reservedField_eq_zero {op : Opcode} {w : Word} (h : w &&& op.mask = op.pattern) :
    w.extractLsb' op.format.operandWidth (24 - op.format.operandWidth) = 0 := by
  have hdiv := (op.fits_iff w).mp (Opcode.fits_iff_mask.mpr h)
  apply BitVec.eq_of_toNat_eq
  rw [BitVec.extractLsb'_toNat, Nat.shiftRight_eq_div_pow, hdiv]
  cases op <;> rfl

end Sys2Proof

namespace Sys2Proof.Machine

open Sys2Proof.Safety

section

variable {s : State} {w : Word} (hp : s.pending = some w)
include hp

theorem engineStep_of_decode {i : Instr} (hd : decode w = .ok i) : engineStep s = exec i s := by
  simp [engineStep, hp, hd]

theorem engineStep_of_decode_error {e : DecodeError} (hd : decode w = .error e) :
    engineStep s = .next (onlyFinished .illegalCommand s) := by
  simp only [engineStep, hp, hd]
  rfl

/-- A word that is no command is an IllegalCommand. -/
theorem engineStep_of_no_command (hd : ∀ i, decode w ≠ .ok i) :
    engineStep s = .next (onlyFinished .illegalCommand s) := by
  cases he : decode w with
  | ok i => exact absurd he (hd i)
  | error e => exact engineStep_of_decode_error hp he

/-- A defined opcode whose mask fails is an IllegalCommand (R62). -/
theorem engineStep_of_mask_ne {op : Opcode} (hop : opField w = op.code) (hmask : w &&& op.mask ≠ op.pattern) :
    engineStep s = .next (onlyFinished .illegalCommand s) := by
  refine engineStep_of_no_command hp fun i hd => hmask ?_
  have hsame : op = i.opcode := Option.some.inj <| by
    rw [← Opcode.ofCode_code op, ← hop, opField_of_decode hd, Opcode.ofCode_code]
  rw [hsame]
  exact mask_of_decode hd

/-- A defined opcode with a reserved bit set is an IllegalCommand (R62). -/
theorem engineStep_of_reserved {op : Opcode} (hop : opField w = op.code)
    (hres : w.extractLsb' op.format.operandWidth (24 - op.format.operandWidth) ≠ 0) :
    engineStep s = .next (onlyFinished .illegalCommand s) :=
  engineStep_of_mask_ne hp hop fun hmask => hres (Opcode.reservedField_eq_zero hmask)

/-- A word whose mask matches is performed by the command read from it (R64). -/
theorem engineStep_of_mask {op : Opcode} (hmask : w &&& op.mask = op.pattern) : engineStep s = exec (op.instr w) s :=
  engineStep_of_decode hp (decode_of_mask hmask)

end

theorem rangeInFb_eq_false {a n : Nat} (h : 512 < a + n) : rangeInFb a n = false :=
  decide_eq_false (Nat.not_le.mpr h)

/-- CRC_RANGE out of range only finishes (R74). -/
theorem exec_crcRange_out {a n : Nat} (h : 512 < a + n) (s : State) :
    exec (.crcRange a n) s = .next (onlyFinished .rangeError s) := by
  simp only [exec, execCrcRange, rangeInFb_eq_false h]
  rfl

/-- SUM_RANGE out of range only finishes (R78). -/
theorem exec_sumRange_out {a n : Nat} (h : 512 < a + n) (s : State) :
    exec (.sumRange a n) s = .next (onlyFinished .rangeError s) := by
  simp only [exec, execSumRange, rangeInFb_eq_false h]
  rfl

/-- Settles O4: each row by its mask and match, the reserved opcodes by the bits 31..24, and the illegal words by the
engine step of a decode error. -/
theorem opcodeMapByMaskAndMatch : Obligations.OpcodeMapByMaskAndMatch := by
  intro w
  refine ⟨⟨fun h => ⟨_, decode_of_mask (op := .crcSeed) h⟩, fun ⟨_, h⟩ => mask_of_decode h⟩,
    ⟨fun h => ⟨_, decode_of_mask (op := .crcByte) h⟩, fun ⟨_, h⟩ => mask_of_decode h⟩,
    ⟨fun h => ⟨_, _, decode_of_mask (op := .crcRange) h⟩, fun ⟨_, _, h⟩ => mask_of_decode h⟩,
    ⟨fun h => ⟨_, decode_of_mask (op := .sumSeed) h⟩, fun ⟨_, h⟩ => mask_of_decode h⟩,
    ⟨fun h => ⟨_, decode_of_mask (op := .sumByte) h⟩, fun ⟨_, h⟩ => mask_of_decode h⟩,
    ⟨fun h => ⟨_, _, decode_of_mask (op := .sumRange) h⟩, fun ⟨_, _, h⟩ => mask_of_decode h⟩,
    ⟨fun h => decode_of_mask (op := .build) h, fun h => mask_of_decode h⟩,
    ⟨fun h => decode_of_mask (op := .parse) h, fun h => mask_of_decode h⟩,
    ?_, fun e s hp hd => engineStep_of_decode_error hp hd⟩
  rw [decode_eq_reservedOpcode_iff, Opcode.ofCode_eq_none_iff, opField_toNat,
    show (2 : Nat) ^ 24 = 16777216 from rfl]

/-- Settles O6: the reserved bits of a word that passes its mask are 0. -/
theorem reservedBitsFinishIllegal : Obligations.ReservedBitsFinishIllegal := by
  rintro s w hp (⟨hop, hres⟩ | ⟨hop | hop | hop, hres⟩ | ⟨hop | hop, hres⟩)
  · exact engineStep_of_reserved hp (op := .crcSeed) hop hres
  · exact engineStep_of_reserved hp (op := .crcByte) hop hres
  · exact engineStep_of_reserved hp (op := .sumSeed) hop hres
  · exact engineStep_of_reserved hp (op := .sumByte) hop hres
  · exact engineStep_of_reserved hp (op := .build) hop hres
  · exact engineStep_of_reserved hp (op := .parse) hop hres

/-- Settles O7: a reserved opcode is found by no row. -/
theorem reservedOpcodesFinishIllegal : Obligations.ReservedOpcodesFinishIllegal := by
  intro s w hp hop
  have hres : (opField w).toNat = 0 ∨ 9 ≤ (opField w).toNat := hop.imp_left (congrArg BitVec.toNat)
  exact engineStep_of_decode_error hp
    ((decode_eq_reservedOpcode_iff w).mpr ((Opcode.ofCode_eq_none_iff _).mpr hres))

/-- Settles O8: no opcode, then no mask, then out of range, then the command read from the word. -/
theorem engineFollowsDecodeOrder : Obligations.EngineFollowsDecodeOrder := by
  intro s w hp
  refine ⟨fun hop => ?_, fun op hop hmask => engineStep_of_mask_ne hp hop hmask, fun op _ hmask hrng hout => ?_,
    fun op _ hmask => ⟨op.instr w, decode_of_mask hmask, op.instr_opcode w, engineStep_of_mask hp hmask⟩⟩
  · exact engineStep_of_no_command hp fun i hd => hop i.opcode (opField_of_decode hd)
  · rw [engineStep_of_mask hp hmask]
    obtain rfl | rfl := hrng
    · exact exec_crcRange_out hout s
    · exact exec_sumRange_out hout s

end Sys2Proof.Machine
end

section
/-! SUPPORT. Whose step it is, and the host's WAIT and CMD write (R14, R58, R67). -/

namespace Sys2Proof.Machine

open Sys2Proof.Safety

theorem takeTurn_engine_busy {s : State} (hb : s.status.busy = true) : takeTurn .engine s = engineStep s := by
  simp [takeTurn, engineTurn, hb]

theorem afterTurn_of_turns_eq_nil {s : State} (h : s.turns = []) : afterTurn s = s := by
  unfold afterTurn
  rw [h, List.tail_nil, ← h]

/-- The next turn, listed or default (log entry 1). -/
def nextTurn (s : State) : Turn := s.turns.head?.getD (defaultTurn s)

theorem step_eq_takeTurn_nextTurn (s : State) : step s = takeTurn (nextTurn s) (afterTurn s) := by
  unfold step machineStep nextTurn
  split
  · next h => rw [h, afterTurn_of_turns_eq_nil h]; rfl
  · next t rest h => simp [h, afterTurn]

/-- The step when the engine is next (R14, log entry 1). -/
theorem step_of_engineNext {s : State} (h : engineNext s) : step s = engineStep (afterTurn s) := by
  obtain ⟨hturn, hb⟩ := h
  have hnext : nextTurn s = .engine := by
    obtain hhead | hnil := hturn
    · simp [nextTurn, hhead]
    · simp [nextTurn, hnil, defaultTurn, hb]
  rw [step_eq_takeTurn_nextTurn, hnext]
  exact takeTurn_engine_busy hb

/-- The step when the host is next (R14, log entry 1). -/
theorem step_of_hostNext {s : State} (h : hostNext s) : step s = .next (afterTurn s).hostStep := by
  have hnext : nextTurn s = .host := by
    obtain hhead | ⟨hnil, hb⟩ := h
    · simp [nextTurn, hhead]
    · simp [nextTurn, hnil, defaultTurn, hb]
  rw [step_eq_takeTurn_nextTurn, hnext]
  rfl

/-- A word read of STATUS (R19, R44). -/
theorem State.busRead_status_word (s : State) :
    s.busRead Offset.status .word = { s with rdata := some s.statusWord } := by
  rw [State.busRead_reg (by decide) (by decide), State.regWord_status]

/-- WAIT reads STATUS, and stays listed while BUSY reads 1 (R67). -/
theorem State.hostStep_wait {s : State} {rest : List HostOp} (h : s.hostOps = .wait :: rest) :
    s.hostStep =
      { s with hostOps := if s.status.busy then .wait :: rest else rest, rdata := some s.statusWord } := by
  simp only [State.hostStep, h, State.hostAct, State.busRead_status_word]
  cases s.status.busy <;> rfl

/-- Settles O10: the engine's step is the decoded command's meaning. -/
theorem stepRunsDecodedCommand : Obligations.StepRunsDecodedCommand := by
  intro s w i hnext hp hd
  rw [step_of_engineNext hnext]
  exact engineStep_of_decode (s := afterTurn s) hp hd

/-- Settles O13: the host's step is the one WAIT makes. -/
theorem waitPollsUntilIdle : Obligations.WaitPollsUntilIdle := by
  intro s rest hnext hops
  rw [step_of_hostNext hnext]
  exact congrArg Host.Outcome.next (State.hostStep_wait hops)

/-- Settles O14, by the equation of the CMD write of an idle block. -/
theorem cmdWriteLatchesCommand : Obligations.CmdWriteLatchesCommand := fun _ w hb => State.busWrite_cmd_idle hb w

end Sys2Proof.Machine
end

section
/-! SUPPORT. The CRC function (R68 to R71): the step as an iterated shift, the chaining law, and the check value. -/

namespace Sys2Proof.Machine

/-- The shift with its test on the value's parity (R68). -/
theorem crcShift_eq_ite_odd (c : Half) : crcShift c = if c.toNat % 2 = 1 then (c >>> 1) ^^^ 0xA001 else c >>> 1 := by
  have hbit : c.getLsbD 0 = decide (c.toNat % 2 = 1) := Nat.testBit_zero c.toNat
  simp only [crcShift, hbit, decide_eq_true_eq]

theorem crcShifts_eq_iterate (k : Nat) (c : Half) : crcShifts k c = crcShift^[k] c := by
  induction k generalizing c with
  | zero => rfl
  | succ k ih => rw [crcShifts_succ, ih, Function.iterate_succ_apply]

/-- Settles O16: the shifts are the iterate of one, whose test is the value's parity. -/
theorem crcStepShiftsEightTimes : Obligations.CrcStepShiftsEightTimes := by
  refine ⟨fun c b => ?_, rfl, by decide, by decide⟩
  rw [crcStep, crcShifts_eq_iterate, funext crcShift_eq_ite_odd]

/-- The chaining law (R71). -/
theorem crc16_append (seed : Half) (a b : List Byte) : crc16 seed (a ++ b) = crc16 (crc16 seed a) b :=
  List.foldl_append

/-- The check value of CRC-16/MODBUS: the CRC of "123456789" (R69). -/
theorem crc16_checkValue : crc16 0xFFFF [0x31, 0x32, 0x33, 0x34, 0x35, 0x36, 0x37, 0x38, 0x39] = 0x4B37 := by
  decide +kernel

/-- Settles O17, by the chaining law; one byte more is the law for a one-byte end. -/
theorem crcFoldsAndChains : Obligations.CrcFoldsAndChains :=
  ⟨crc16_nil, fun seed d b => crc16_append seed d [b], crc16_append, fun _ => rfl, crc16_checkValue⟩

/-- XORing a value's own low byte in clears its low 8 bits, so no shift meets a 1: the step is a plain shift by 8. -/
theorem crcStep_own_low_byte (c : Half) : crcStep c (c.extractLsb' 0 8) = c >>> 8 := by
  have hbit : ∀ i, (c ^^^ (c.extractLsb' 0 8).setWidth 16).getLsbD i = (c.getLsbD i && decide (8 ≤ i)) := by
    intro i
    by_cases hi : i < 8
    · simp [hi, show i < 16 by omega]
    · simp [show 8 ≤ i by omega]
  rw [crcStep, crcShifts_of_low_zero]
  · apply BitVec.eq_of_getLsbD_eq
    intro i _
    rw [BitVec.getLsbD_ushiftRight, hbit]
    simp
  · intro i hi
    rw [hbit]
    simp [hi]

/-- 0 is a fixed point of the shifts, so of `crc_step` with a zero byte (R73). -/
theorem crcShifts_zero (k : Nat) : crcShifts k 0 = 0 := by
  rw [crcShifts_of_low_zero k 0 fun i _ => BitVec.getLsbD_zero]
  exact BitVec.zero_ushiftRight

theorem crcStep_shifted_high_byte (c : Half) : crcStep (c >>> 8) (c.extractLsb' 8 8) = 0 := by
  have hhigh : (c.extractLsb' 8 8).setWidth 16 = c >>> 8 := by
    apply BitVec.eq_of_getLsbD_eq
    intro i hi
    by_cases h : i < 8
    · simp [h, hi]
    · simp [h, BitVec.getLsbD_of_ge c (8 + i) (by omega)]
  rw [crcStep, hhigh, BitVec.xor_self]
  exact crcShifts_zero 8

/-- A CRC value is taken to 0 by its own two bytes, low byte first (R70). -/
theorem crc16_own_crcBytes (c : Half) : crc16 c (crcBytes c) = 0 := by
  rw [crcBytes, crc16_cons, crc16_cons, crc16_nil, crcStep_own_low_byte, crcStep_shifted_high_byte]

/-- The check-value invariant, for every seed (R70). -/
theorem crc16_append_crcBytes (seed : Half) (d : List Byte) : crc16 seed (d ++ crcBytes (crc16 seed d)) = 0 := by
  rw [crc16_append, crc16_own_crcBytes]

/-- The request sub-frame with its CRC has CRC 0 (R70, R81). -/
theorem crc16_requestSubframe : crc16 0xFFFF (requestSubframe ++ crcBytes requestCrc) = 0 :=
  crc16_append_crcBytes 0xFFFF requestSubframe

/-- Settles O18: the CRC's own two bytes shift it out without meeting a 1; the rule's example is the request
sub-frame. -/
theorem crcOfDataAndItsCrcIsZero : Obligations.CrcOfDataAndItsCrcIsZero := by
  refine ⟨crc16_append_crcBytes 0xFFFF, requestCrc_eq, ?_, by decide +kernel⟩
  have hexample := crc16_requestSubframe
  rw [requestCrc_eq] at hexample
  exact hexample

end Sys2Proof.Machine
end

section
/-! SUPPORT. The CRC commands (R72 to R74): a word of a defined opcode is its command or an IllegalCommand by its
reserved bits alone, and what BUILD leaves for CRC_RANGE to read. -/

namespace Sys2Proof

/-- A defined opcode with its reserved bits 0 passes its row's mask (R60, R62). -/
theorem Opcode.mask_of_reservedField_eq_zero {op : Opcode} {w : Word} (hop : opField w = op.code)
    (hres : w.extractLsb' op.format.operandWidth (24 - op.format.operandWidth) = 0) :
    w &&& op.mask = op.pattern := by
  have hcode : w.toNat / 16777216 = op.code.toNat := by rw [← opField_toNat, hop]
  have hlow := congrArg BitVec.toNat hres
  rw [BitVec.extractLsb'_toNat, Nat.shiftRight_eq_div_pow] at hlow
  rw [← Opcode.fits_iff_mask, Opcode.fits_iff]
  cases op <;>
    (simp only [Opcode.format, Format.operandWidth, Opcode.pattern, Opcode.code, BitVec.reduceToNat] at hcode hlow ⊢
     omega)

end Sys2Proof

namespace Sys2Proof.Machine

open Sys2Proof.Safety

/-- The engine step of a word of a defined opcode: the reserved bits decide (R62, R64). -/
theorem engineStep_of_opcode {s : State} {w : Word} (hp : s.pending = some w) {op : Opcode}
    (hop : opField w = op.code) :
    engineStep s =
      if w.extractLsb' op.format.operandWidth (24 - op.format.operandWidth) = 0 then exec (op.instr w) s
      else .next (onlyFinished .illegalCommand s) := by
  split
  · next hres => exact engineStep_of_mask hp (Opcode.mask_of_reservedField_eq_zero hop hres)
  · next hres => exact engineStep_of_reserved hp hop hres

theorem exec_crcSeed (imm16 : Half) (s : State) :
    exec (.crcSeed imm16) s = .next (onlyFinished .ok { s with crc := imm16 }) := rfl

theorem exec_crcByte (imm8 : Byte) (s : State) :
    exec (.crcByte imm8) s = .next (onlyFinished .ok { s with crc := crcStep s.crc imm8 }) := rfl

/-- CRC_RANGE in range (R74). -/
theorem exec_crcRange_in {a n : Nat} (h : a + n ≤ 512) (s : State) :
    exec (.crcRange a n) s = .next (onlyFinished .ok { s with
      crc := crc16 s.crc (s.fbBytes a n)
      unwrittenRead := s.unwrittenRead || (fbRange a n).any fun i => !s.fbWritten i }) := by
  have hin : rangeInFb a n = true := decide_eq_true h
  simp only [exec, execCrcRange, hin]
  rfl

/-- Settles O19: the opcode's reserved bits are `w[23:16]`. -/
theorem crcSeedLoadsCrc : Obligations.CrcSeedLoadsCrc := by
  refine ⟨exec_crcSeed, fun s w hp hop => ?_, crcShifts_zero 8⟩
  rw [apply_ite Host.Outcome.next]
  exact engineStep_of_opcode hp (op := .crcSeed) hop

/-- Settles O20: the opcode's reserved bits are `w[23:8]`. -/
theorem crcByteFoldsOneByte : Obligations.CrcByteFoldsOneByte := by
  refine ⟨exec_crcByte, fun s w hp hop => ?_, by decide, by decide, crcShifts_zero 8, by decide⟩
  rw [apply_ite Host.Outcome.next]
  exact engineStep_of_opcode hp (op := .crcByte) hop

/-- FB[0..35] after BUILD, read as a range, is that part of the request frame. -/
theorem State.buildWith_fbBytes (template : Nat → Byte) (s : State) {i n : Nat} (h : i + n ≤ 36) :
    (s.buildWith template).fbBytes i n = ((requestFrame template s.serial).drop i).take n := by
  apply List.ext_getElem
  · simp only [State.fbBytes_length, List.length_take, List.length_drop, requestFrame_length]
    omega
  · intro k hk _
    rw [State.fbBytes_length] at hk
    simp [State.fbBytes, fbRange, State.buildWith_fbByte template s (show i + k < 36 by omega)]

/-- FB[26..33] after BUILD is the request sub-frame followed by its CRC (R79, R80). -/
theorem State.buildWith_subframe (template : Nat → Byte) (s : State) :
    (s.buildWith template).fbBytes 26 8 = requestSubframe ++ crcBytes requestCrc :=
  State.buildWith_fbBytes template s (by decide)

/-- A command that wrote only CRC and finished left FB as it reads. -/
theorem fbBytes_onlyFinished_withCrc (code : ResultCode) (c : Half) (s : State) (i n : Nat) :
    (onlyFinished code { s with crc := c }).fbBytes i n = s.fbBytes i n := rfl

/-- After BUILD, CRC_SEED 0xFFFF then CRC_RANGE 26, 8 leaves CRC = 0 (R74). -/
theorem crcRange_after_build (s : State) : ∃ t u v, exec .build s = .next t ∧ exec (.crcSeed 0xFFFF) t = .next u ∧
    exec (.crcRange 26 8) u = .next v ∧ v.crc = 0x0000 := by
  refine ⟨s.buildWith Config.template, _, _, rfl, exec_crcSeed _ _, exec_crcRange_in (by decide) _, ?_⟩
  change crc16 0xFFFF (State.fbBytes _ 26 8) = 0
  rw [fbBytes_onlyFinished_withCrc, State.buildWith_subframe]
  exact crc16_requestSubframe

/-- Settles O21: the range check, the format without reserved bits, and the check value of the sub-frame BUILD wrote. -/
theorem crcRangeFoldsFrameBytes : Obligations.CrcRangeFoldsFrameBytes := by
  refine ⟨fun _ _ s h => exec_crcRange_in h s, fun _ _ s h => exec_crcRange_out h s, fun s w hp hop => ?_,
    crcRange_after_build⟩
  have hnone : w.extractLsb' 24 0 = 0 := BitVec.of_length_zero
  exact (engineStep_of_opcode hp (op := .crcRange) hop).trans (if_pos hnone)

end Sys2Proof.Machine
end

section
/-! SUPPORT. The byte sum (R75) and its commands (R76 to R78): `sum8` as a sum of numbers, what each SUM command does, and
what BUILD leaves for SUM_RANGE to read. -/

namespace Sys2Proof.Machine

open Sys2Proof.Safety

theorem sum8_toNat (seed : Byte) (d : List Byte) :
    (sum8 seed d).toNat = (seed.toNat + (d.map BitVec.toNat).sum) % 256 := by
  induction d generalizing seed with
  | nil => exact (Nat.mod_eq_of_lt seed.isLt).symm
  | cons b bs ih =>
    rw [sum8_cons, ih, BitVec.toNat_add, Nat.mod_add_mod, List.map_cons, List.sum_cons, Nat.add_assoc]

theorem sum8_perm {d d' : List Byte} (h : d.Perm d') (seed : Byte) : sum8 seed d = sum8 seed d' := by
  apply BitVec.eq_of_toNat_eq
  rw [sum8_toNat, sum8_toNat, (h.map BitVec.toNat).sum_eq]

/-- Settles O22: as a sum of numbers modulo 256, `sum8` does not depend on the order. -/
theorem byteSumIsModulo256 : Obligations.ByteSumIsModulo256 :=
  ⟨sum8_toNat, sum8_append, fun seed _ _ h => sum8_perm h seed⟩

theorem exec_sumSeed (imm8 : Byte) (s : State) :
    exec (.sumSeed imm8) s = .next (onlyFinished .ok { s with sum := imm8 }) := rfl

/-- Settles O23: the opcode's reserved bits are `w[23:8]`. -/
theorem sumSeedLoadsSum : Obligations.SumSeedLoadsSum := by
  refine ⟨exec_sumSeed, fun s w hp hop => ?_⟩
  rw [apply_ite Host.Outcome.next]
  exact engineStep_of_opcode hp (op := .sumSeed) hop

theorem exec_sumByte (imm8 : Byte) (s : State) :
    exec (.sumByte imm8) s = .next (onlyFinished .ok { s with sum := s.sum + imm8 }) := rfl

/-- The addition of bytes, written on numbers (R77). -/
theorem byte_add_eq_ofNat_mod (x y : Byte) : x + y = BitVec.ofNat 8 ((x.toNat + y.toNat) % 256) :=
  BitVec.eq_of_toNat_eq (by simp)

/-- Settles O24: the opcode's reserved bits are `w[23:8]`, and `w mod 256` is the operand `w[7:0]`. -/
theorem sumByteAddsModulo256 : Obligations.SumByteAddsModulo256 := by
  refine ⟨fun imm8 s => ?_, fun s w hp hop => ?_⟩
  · rw [exec_sumByte, byte_add_eq_ofNat_mod]
  · have hoperand : (w.extractLsb' 0 8).toNat = w.toNat % 256 := by simp
    rw [apply_ite Host.Outcome.next, ← hoperand, ← byte_add_eq_ofNat_mod]
    exact engineStep_of_opcode hp (op := .sumByte) hop

/-- SUM_RANGE in range (R78). -/
theorem exec_sumRange_in {a n : Nat} (h : a + n ≤ 512) (s : State) :
    exec (.sumRange a n) s = .next (onlyFinished .ok { s with
      sum := sum8 s.sum (s.fbBytes a n)
      unwrittenRead := s.unwrittenRead || (fbRange a n).any fun i => !s.fbWritten i }) := by
  have hin : rangeInFb a n = true := decide_eq_true h
  simp only [exec, execSumRange, hin]
  rfl

/-- FB[1..33] after BUILD is what the request's checksum covers (R80). -/
theorem State.buildWith_covered (template : Nat → Byte) (s : State) :
    (s.buildWith template).fbBytes 1 33 = requestCovered template s.serial := by
  rw [State.buildWith_fbBytes template s (by decide), requestFrame, List.drop_one, List.tail_cons]
  exact List.take_left' (requestCovered_length template s.serial)

/-- FB[34] after BUILD is the request's checksum (R80). -/
theorem State.buildWith_checksum (template : Nat → Byte) (s : State) :
    (s.buildWith template).fbByte 34 = requestSum template s.serial := by
  rw [State.buildWith_fbByte template s (by decide)]
  simp [requestFrame]

/-- The request's checksum under the template T0 and the serial number of R78's example. -/
theorem requestSum_example : requestSum (fun _ => 0) 0x12345678 = 0x55 := by
  unfold requestSum requestCovered
  rw [requestCrc_eq]
  decide

/-- Every command but BUILD leaves FB as it reads. -/
theorem exec_fbByte {i : Instr} {s t : State} (h : exec i s = .next t) (hi : i ≠ .build) (k : Nat) :
    t.fbByte k = s.fbByte k :=
  State.fbByte_congr ((exec_leaves h).fb hi) (exec_leaves h).same.powerOns k

/-- Every command but BUILD leaves FB as it reads, here a range of it. -/
theorem exec_fbBytes {i : Instr} {s t : State} (h : exec i s = .next t) (hi : i ≠ .build) (k n : Nat) :
    t.fbBytes k n = s.fbBytes k n :=
  State.fbBytes_congr ((exec_leaves h).fb hi) (exec_leaves h).same.powerOns k n

/-- SUM_SEED 0 then SUM_RANGE 1, 33 after BUILD leaves in SUM the checksum BUILD stored at FB[34] (R78, R80). -/
theorem sumRange_after_build (template : Nat → Byte) (s : State) :
    ∃ u v, exec (.sumSeed 0x00) (s.buildWith template) = .next u ∧ exec (.sumRange 1 33) u = .next v ∧
      v.sum = requestSum template s.serial ∧ v.fbByte 34 = requestSum template s.serial := by
  have hseed := exec_sumSeed 0x00 (s.buildWith template)
  have hrange := exec_sumRange_in (show 1 + 33 ≤ 512 by decide) (onlyFinished .ok { s.buildWith template with sum := 0 })
  refine ⟨_, _, hseed, hrange, ?_, ?_⟩
  · change sum8 0 (State.fbBytes _ 1 33) = sum8 0 _
    rw [exec_fbBytes hseed nofun, State.buildWith_covered]
  · rw [exec_fbByte hrange nofun, exec_fbByte hseed nofun, State.buildWith_checksum]

/-- Settles O25: the range check, the format without reserved bits, and the checksum BUILD wrote. -/
theorem sumRangeAddsFrameBytes : Obligations.SumRangeAddsFrameBytes := by
  refine ⟨fun _ _ s h => exec_sumRange_in h s, fun _ _ s h => exec_sumRange_out h s, fun s w hp hop => ?_, by decide,
    fun s hserial => ?_⟩
  · have hnone : w.extractLsb' 24 0 = 0 := BitVec.of_length_zero
    exact (engineStep_of_opcode hp (op := .sumRange) hop).trans (if_pos hnone)
  · have hexample := sumRange_after_build (fun _ => 0) s
    rwa [hserial, requestSum_example] at hexample

end Sys2Proof.Machine
end

section
/-! SUPPORT. The request frame as BUILD leaves it (R79 to R81), read back field by field, and what PARSE makes of it. -/

namespace Sys2Proof.Machine

open Sys2Proof.Safety

/-! The request frame in FB, field by field (R79). -/

section

variable (template : Nat → Byte) (s : State)

theorem State.buildWith_startMarker : (s.buildWith template).fbByte 0 = 0xA5 :=
  s.buildWith_fbByte template (by decide)

theorem State.buildWith_endMarker : (s.buildWith template).fbByte 35 = 0x15 :=
  s.buildWith_fbByte template (by decide)

/-- Of the template, BUILD writes the bytes at 1..6 and at 11..25 (R8, R80). -/
theorem State.buildWith_template {o : Nat} (ho : (1 ≤ o ∧ o ≤ 6) ∨ (11 ≤ o ∧ o ≤ 25)) :
    (s.buildWith template).fbByte o = template o := by
  have hlow : (s.buildWith template).fbBytes 1 6 = (List.range' 1 6).map template :=
    s.buildWith_fbBytes template (by decide)
  have hhigh : (s.buildWith template).fbBytes 11 15 = (List.range' 11 15).map template :=
    s.buildWith_fbBytes template (by decide)
  obtain ho | ho := ho
  · exact List.map_inj_left.mp hlow o (List.mem_range'_1.mpr (by omega))
  · exact List.map_inj_left.mp hhigh o (List.mem_range'_1.mpr (by omega))

/-- FB[7..10] after BUILD is SERIAL, low byte first (R80). -/
theorem State.buildWith_serialBytes : (s.buildWith template).fbBytes 7 4 = wordBytes s.serial 4 :=
  s.buildWith_fbBytes template (by decide)

theorem State.buildWith_serialByte {k : Nat} (h : k < 4) :
    (s.buildWith template).fbByte (7 + k) = s.serial.extractLsb' (8 * k) 8 := by
  have hbyte := congrArg (·[k]?) (s.buildWith_serialBytes template)
  simpa [State.fbBytes, fbRange, wordBytes, wordByte, h] using hbyte

/-- FB[26..31] after BUILD is the fixed sub-frame without its CRC (R79). -/
theorem State.buildWith_subframeData : (s.buildWith template).fbBytes 26 6 = requestSubframe :=
  s.buildWith_fbBytes template (by decide)

theorem State.buildWith_crcLow : (s.buildWith template).fbByte 32 = requestCrc.extractLsb' 0 8 :=
  s.buildWith_fbByte template (by decide)

theorem State.buildWith_crcHigh : (s.buildWith template).fbByte 33 = requestCrc.extractLsb' 8 8 :=
  s.buildWith_fbByte template (by decide)

theorem State.buildWith_fbByte_beyond {k : Nat} (h : 36 ≤ k) : (s.buildWith template).fbByte k = s.fbByte k := by
  unfold State.fbByte
  rw [s.buildWith_lookup_beyond template h, State.buildWith_powerOns]

end

/-- A word is made up of its four bytes, lowest first (R13 LE32, R48). -/
theorem leWord_wordBytes (v : Word) : leWord (wordBytes v 4) = v := by
  have hv := v.isLt
  apply BitVec.eq_of_toNat_eq
  change (leWord [wordByte v 0, wordByte v 1, wordByte v 2, wordByte v 3]).toNat = v.toNat
  rw [leWord_four_toNat]
  simp only [wordByte, BitVec.extractLsb'_toNat, Nat.shiftRight_eq_div_pow]
  omega

/-- The checksum as R79 writes it: 0x41 for the fixed bytes, and the template's and SERIAL's bytes. -/
theorem requestSum_eq (template : Nat → Byte) (serial : Word) :
    requestSum template serial = sum8 0 ((List.range' 1 6).map template) + sum8 0 (wordBytes serial 4) +
      sum8 0 ((List.range' 11 15).map template) + 0x41 := by
  have hfixed : sum8 0 (requestSubframe ++ crcBytes requestCrc) = 0x41 := by
    rw [requestCrc_eq]
    decide
  unfold requestSum requestCovered requestBody
  rw [List.append_assoc, sum8_append, sum8_seed _ (requestSubframe ++ _), hfixed, sum8_append, sum8_append,
    sum8_seed _ ((List.range' 11 15).map template), sum8_seed _ (wordBytes serial 4)]

/-- With the all-zero template T0, only SERIAL adds to the checksum (R80). -/
theorem requestSum_zeroTemplate (serial : Word) :
    requestSum (fun _ => 0) serial = sum8 0 (wordBytes serial 4) + 0x41 := by
  rw [requestSum_eq]
  change 0 + sum8 0 (wordBytes serial 4) + 0 + 0x41 = _
  rw [zero_add, add_zero]

theorem State.finish_eq_onlyFinished (code : ResultCode) (s : State) : s.finish code = onlyFinished code s := rfl

/-- BUILD ends as a finish after writing FB, LEN, CRC and SUM (R80). -/
theorem State.buildWith_eq_onlyFinished (template : Nat → Byte) (s : State) :
    s.buildWith template = onlyFinished .ok { s with
      fb := s.fb.writeBytes 0 (requestFrame template s.serial)
      len := 36
      crc := requestCrc
      sum := requestSum template s.serial } := by
  rw [State.buildWith, State.finish_eq_onlyFinished, State.storeFb]

/-- The CRC BUILD leaves is that of the bytes it wrote (R80 step 3). -/
theorem State.buildWith_crc_of_bytes (template : Nat → Byte) (s : State) :
    (s.buildWith template).crc = crc16 0xFFFF ((s.buildWith template).fbBytes 26 6) := by
  rw [State.buildWith_crc, State.buildWith_subframeData]
  rfl

/-- The checksum BUILD leaves is that of the bytes it wrote (R80 step 4). -/
theorem State.buildWith_sum_of_bytes (template : Nat → Byte) (s : State) :
    (s.buildWith template).sum = sum8 0x00 ((s.buildWith template).fbBytes 1 33) := by
  rw [State.buildWith_sum, State.buildWith_covered]
  rfl

/-- Settles O26, field by field from the request frame in FB; the opcode's reserved bits are `w[23:0]`. -/
theorem buildWritesRequestFrame : Obligations.BuildWritesRequestFrame := by
  refine ⟨fun s => ⟨s.buildWith Config.template, rfl, fun i hi => ?_, ?_⟩,
    fun s w hp hop => engineStep_of_opcode hp (op := .build) hop, fun s hserial => ?_, fun s hserial => ?_⟩
  · rw [State.buildWith_lookup _ s hi, State.buildWith_fbByte _ s hi]
  · refine ⟨s.buildWith_startMarker _, fun o ho => s.buildWith_template _ ho,
      s.buildWith_serialByte _ (k := 0) (by decide), s.buildWith_serialByte _ (k := 1) (by decide),
      s.buildWith_serialByte _ (k := 2) (by decide), s.buildWith_serialByte _ (k := 3) (by decide),
      s.buildWith_subframeData _, s.buildWith_crc_of_bytes _, ?_, ?_, ?_, ?_, s.buildWith_sum_of_bytes _, ?_,
      s.buildWith_endMarker _, s.buildWith_len _,
      fun i hi => ⟨s.buildWith_lookup_beyond _ hi, s.buildWith_fbByte_beyond _ hi⟩, ?_⟩
    · rw [State.buildWith_crcLow, State.buildWith_crc]
    · rw [State.buildWith_crcHigh, State.buildWith_crc]
    · rw [State.buildWith_crcLow, requestCrc_eq]
      decide
    · rw [State.buildWith_crcHigh, requestCrc_eq]
      decide
    · rw [State.buildWith_checksum, State.buildWith_sum]
    · rw [State.buildWith_fb, State.buildWith_len, State.buildWith_crc, State.buildWith_sum]
      exact s.buildWith_eq_onlyFinished _
  · rw [State.buildWith_sum, hserial, requestSum_zeroTemplate]
    decide
  · rw [State.buildWith_sum, hserial, requestSum_zeroTemplate]
    decide

/-! PARSE, check by check, for a frame whose markers and checksum are right and whose residue is not (R86 to R88). -/

/-- LEN below MIN_LEN and inside FB: check 1 fails (R85). -/
theorem State.parseWith_of_short {minLen : Nat} {s : State} (hcap : s.len.toNat ≤ Config.bufCap)
    (hmin : s.len.toNat < minLen) : s.parseWith minLen = s.reject .truncatedFrame := by
  obtain ⟨hlong, -⟩ | ⟨-, -, h⟩ | ⟨-, hsize, -⟩ := s.parseWith_cases minLen
  · omega
  · exact h
  · omega

/-- LEN inside both bounds: the checks of the frame follow (R84, R85). -/
theorem State.parseWith_of_size {minLen : Nat} {s : State} (hcap : s.len.toNat ≤ Config.bufCap)
    (hmin : minLen ≤ s.len.toNat) : s.parseWith minLen = s.parseStart := by
  obtain ⟨hlong, -⟩ | ⟨-, hshort, -⟩ | ⟨-, -, h⟩ := s.parseWith_cases minLen
  · omega
  · omega
  · exact h

theorem State.parseStart_of_marker {s : State} (h : s.fbByte 0 = 0xA5) :
    s.parseStart = (s.noteReads 0 1).parseSum := if_pos h

theorem State.parseSum_of_checksum {s : State} (h : s.frameSum = s.fbByte (s.len.toNat - 2)) :
    s.parseSum = State.parseCrc { s.noteReads 1 (s.len.toNat - 2) with sum := s.frameSum } := if_pos h

theorem State.parseCrc_of_residue_ne {s : State} (h : s.frameResidue ≠ 0) :
    s.parseCrc = State.reject .crcMismatch
      { s.noteReads 25 (5 + (s.fbByte 27).toNat) with crc := s.frameResidue } := if_neg h

/-- The first failing check is the CRC's, and the residue is left in CRC (R88). -/
theorem State.parseStart_crcMismatch {s : State} (hmarker : s.fbByte 0 = 0xA5)
    (hsum : s.frameSum = s.fbByte (s.len.toNat - 2)) (hresidue : s.frameResidue ≠ 0) :
    s.parseStart.status.result = .crcMismatch ∧ s.parseStart.crc = s.frameResidue := by
  rw [State.parseStart_of_marker hmarker, State.parseSum_of_checksum (s := s.noteReads 0 1) hsum,
    State.parseCrc_of_residue_ne (s := { State.noteReads 1 _ (s.noteReads 0 1) with sum := _ }) hresidue]
  exact ⟨rfl, rfl⟩

/-! The same checks on a BUILD result (R81). -/

/-- The residue PARSE finds in a request frame with T[25] = `t`: FB[27] = 3 makes it cover FB[25..32], which begins a byte
before the request's sub-frame and ends before its CRC's high byte (R81). -/
def requestResidue (t : Byte) : Half := crc16 crcFrameSeed (t :: requestSubframe ++ [0xB4])

section

variable (template : Nat → Byte) (s : State)

theorem State.buildWith_frameSum : (s.buildWith template).frameSum = requestSum template s.serial := by
  unfold State.frameSum
  rw [State.buildWith_len]
  exact congrArg (sum8 0) (s.buildWith_covered template)

theorem State.buildWith_frameResidue : (s.buildWith template).frameResidue = requestResidue (template 25) := by
  have hcount : (s.buildWith template).fbByte 27 = 0x03 := s.buildWith_fbByte template (by decide)
  have hrange : (s.buildWith template).fbBytes 25 8 =
      template 25 :: requestSubframe ++ [requestCrc.extractLsb' 0 8] := s.buildWith_fbBytes template (by decide)
  rw [requestCrc_eq] at hrange
  unfold State.frameResidue
  rw [hcount]
  exact congrArg (crc16 crcFrameSeed) hrange

end

/-- No value of T[25] gives the residue 0: all 256 of them, as R81 derives it. -/
theorem requestResidue_ne_zero : ∀ t : Byte, requestResidue t ≠ 0 := by decide +kernel

theorem requestResidue_zero : requestResidue 0 = 0x0B4F := by decide +kernel

/-- PARSE of a BUILD result with MIN_LEN > 36 (R81). -/
theorem State.parseWith_buildWith_short {minLen : Nat} (h : 36 < minLen) (template : Nat → Byte) (s : State) :
    ((s.buildWith template).parseWith minLen).status.result = .truncatedFrame := by
  have hlen : (s.buildWith template).len.toNat = 36 := congrArg BitVec.toNat (s.buildWith_len template)
  rw [State.parseWith_of_short (by rw [hlen]; decide) (by rwa [hlen]), State.reject_result]

/-- PARSE of a BUILD result with MIN_LEN <= 36 passes the markers and the checksum and stops at the CRC (R81). -/
theorem State.parseWith_buildWith_crcMismatch {minLen : Nat} (h : minLen ≤ 36) (template : Nat → Byte) (s : State) :
    ((s.buildWith template).parseWith minLen).status.result = .crcMismatch ∧
      ((s.buildWith template).parseWith minLen).crc = requestResidue (template 25) := by
  have hlen : (s.buildWith template).len.toNat = 36 := congrArg BitVec.toNat (s.buildWith_len template)
  have hsum : (s.buildWith template).frameSum =
      (s.buildWith template).fbByte ((s.buildWith template).len.toNat - 2) := by
    rw [hlen, s.buildWith_frameSum template]
    exact (s.buildWith_checksum template).symm
  have hresidue := s.buildWith_frameResidue template
  rw [State.parseWith_of_size (by rw [hlen]; decide) (by rwa [hlen]), ← hresidue]
  exact State.parseStart_crcMismatch (s.buildWith_startMarker template) hsum
    (hresidue ▸ requestResidue_ne_zero (template 25))

/-- Settles O27: the frame's fields read back, and the first check of PARSE that a request frame fails. -/
theorem buildResultPropertiesAndParse : Obligations.BuildResultPropertiesAndParse := by
  refine ⟨fun s => ⟨rfl, rfl⟩, fun template minLen s => ⟨s.buildWith_startMarker template,
    s.buildWith_endMarker template, ?_, ?_, ?_, s.buildWith_len template,
    fun h => s.parseWith_buildWith_short h template, fun h => ?_⟩⟩
  · exact (congrArg leWord (s.buildWith_serialBytes template)).trans (leWord_wordBytes s.serial)
  · exact (s.buildWith_frameSum template).trans (s.buildWith_checksum template).symm
  · exact (congrArg (crc16 0xFFFF) (s.buildWith_subframe template)).trans crc16_requestSubframe
  · obtain ⟨hresult, hcrc⟩ := s.parseWith_buildWith_crcMismatch h template
    exact ⟨hresult, fun h25 => by rw [hcrc, h25, requestResidue_zero]⟩

end Sys2Proof.Machine
end

section
/-! SUPPORT. PARSE's outcome from its checks (R83 to R93): what each check does in the course of a PARSE, which row of
R83's table that gives, and what one changed byte does to the sum. -/

namespace Sys2Proof.Machine

open Sys2Proof.Safety

/-! One check at a time (R84 to R89). -/

theorem State.parseWith_of_long {minLen : Nat} {s : State} (h : Config.bufCap < s.len.toNat) :
    s.parseWith minLen = s.reject .rangeError := if_pos h

theorem State.parseStart_of_marker_ne {s : State} (h : s.fbByte 0 ≠ 0xA5) :
    s.parseStart = (s.noteReads 0 1).reject .badStartMarker := if_neg h

theorem State.parseSum_of_checksum_ne {s : State} (h : s.frameSum ≠ s.fbByte (s.len.toNat - 2)) :
    s.parseSum = State.reject .checksumMismatch { s.noteReads 1 (s.len.toNat - 2) with sum := s.frameSum } := if_neg h

theorem State.parseCrc_of_residue {s : State} (h : s.frameResidue = 0) :
    s.parseCrc = State.parseEnd { s.noteReads 25 (5 + (s.fbByte 27).toNat) with crc := s.frameResidue } := if_pos h

theorem State.parseEnd_of_marker {s : State} (h : s.fbByte (s.len.toNat - 1) = 0x15) :
    s.parseEnd = (s.noteReads (s.len.toNat - 1) 1).accept := if_pos h

theorem State.parseEnd_of_marker_ne {s : State} (h : s.fbByte (s.len.toNat - 1) ≠ 0x15) :
    s.parseEnd = (s.noteReads (s.len.toNat - 1) 1).reject .badEndMarker := if_neg h

/-! The checks in the course of a PARSE: each goes on or ends it, with SUM and CRC as written so far. -/

/-- The state a check of PARSE runs from: SUM, CRC and the record of unwritten reads may have been written, and nothing
else has. -/
def State.checking (sum : Byte) (crc : Half) (record : Bool) (s : State) : State :=
  { s with sum := sum, crc := crc, unwrittenRead := record }

section

variable {s : State} (hcap : s.len.toNat ≤ 512) (hmin : Config.minLen ≤ s.len.toNat)
include hcap hmin

theorem State.parseWith_badStartMarker (hstart : s.fbByte 0 ≠ 0xA5) :
    ∃ r, s.parseWith Config.minLen = (s.checking s.sum s.crc r).reject .badStartMarker :=
  ⟨_, (State.parseWith_of_size hcap hmin).trans (State.parseStart_of_marker_ne hstart)⟩

variable (hstart : s.fbByte 0 = 0xA5)
include hstart

theorem State.parseWith_parseSum : ∃ r, s.parseWith Config.minLen = (s.checking s.sum s.crc r).parseSum :=
  ⟨_, (State.parseWith_of_size hcap hmin).trans (State.parseStart_of_marker hstart)⟩

theorem State.parseWith_checksumMismatch (hsum : s.frameSum ≠ s.fbByte (s.len.toNat - 2)) :
    ∃ r, s.parseWith Config.minLen = (s.checking s.frameSum s.crc r).reject .checksumMismatch := by
  obtain ⟨r, h⟩ := State.parseWith_parseSum hcap hmin hstart
  exact ⟨_, h.trans (State.parseSum_of_checksum_ne (s := s.checking s.sum s.crc r) hsum)⟩

variable (hsum : s.frameSum = s.fbByte (s.len.toNat - 2))
include hsum

theorem State.parseWith_parseCrc : ∃ r, s.parseWith Config.minLen = (s.checking s.frameSum s.crc r).parseCrc := by
  obtain ⟨r, h⟩ := State.parseWith_parseSum hcap hmin hstart
  exact ⟨_, h.trans (State.parseSum_of_checksum (s := s.checking s.sum s.crc r) hsum)⟩

theorem State.parseWith_crcMismatch (hresidue : s.frameResidue ≠ 0) :
    ∃ r, s.parseWith Config.minLen = (s.checking s.frameSum s.frameResidue r).reject .crcMismatch := by
  obtain ⟨r, h⟩ := State.parseWith_parseCrc hcap hmin hstart hsum
  exact ⟨_, h.trans (State.parseCrc_of_residue_ne (s := s.checking s.frameSum s.crc r) hresidue)⟩

variable (hresidue : s.frameResidue = 0)
include hresidue

theorem State.parseWith_parseEnd : ∃ r, s.parseWith Config.minLen = (s.checking s.frameSum 0 r).parseEnd := by
  obtain ⟨r, h⟩ := State.parseWith_parseCrc hcap hmin hstart hsum
  have hcheck : (s.checking s.frameSum s.crc r).frameResidue = 0 := hresidue
  rw [h, State.parseCrc_of_residue hcheck, hcheck]
  exact ⟨_, rfl⟩

theorem State.parseWith_badEndMarker (hend : s.fbByte (s.len.toNat - 1) ≠ 0x15) :
    ∃ r, s.parseWith Config.minLen = (s.checking s.frameSum 0 r).reject .badEndMarker := by
  obtain ⟨r, h⟩ := State.parseWith_parseEnd hcap hmin hstart hsum hresidue
  exact ⟨_, h.trans (State.parseEnd_of_marker_ne (s := s.checking s.frameSum 0 r) hend)⟩

theorem State.parseWith_accept (hend : s.fbByte (s.len.toNat - 1) = 0x15) :
    ∃ r, s.parseWith Config.minLen = (s.checking s.frameSum 0 r).accept := by
  obtain ⟨r, h⟩ := State.parseWith_parseEnd hcap hmin hstart hsum hresidue
  exact ⟨_, h.trans (State.parseEnd_of_marker (s := s.checking s.frameSum 0 r) hend)⟩

end

/-! The rows of R83's table. -/

theorem parseEndsWith_of_reject {s : State} {code : ResultCode} {sum : Byte} {crc : Half}
    (h : ∃ r, s.parseWith Config.minLen = (s.checking sum crc r).reject code) :
    parseEndsWith s code false View.zero sum crc := by
  obtain ⟨r, h⟩ := h
  exact ⟨(s.checking sum crc r).reject code, congrArg Host.Outcome.next h, rfl⟩

theorem parseEndsWith_of_accept {s : State} {sum : Byte} {crc : Half}
    (h : ∃ r, s.parseWith Config.minLen = (s.checking sum crc r).accept) :
    parseEndsWith s .ok true s.frameView sum crc := by
  obtain ⟨r, h⟩ := h
  exact ⟨(s.checking sum crc r).accept, congrArg Host.Outcome.next h, rfl⟩

/-- Check 0 reads no FB byte (R84, log entries 5 and 15). -/
theorem exec_parse_of_long {s t : State} (hlong : 512 < s.len.toNat) (h : exec .parse s = .next t) :
    t = s.reject .rangeError :=
  (Host.Outcome.next.inj h).symm.trans (State.parseWith_of_long hlong)

/-! The view's fields as numbers (R13, R26 to R29). -/

theorem leWord_four_eq_ofNat (a b c d : Byte) :
    leWord [a, b, c, d] =
      BitVec.ofNat 32 (a.toNat + b.toNat * 2 ^ 8 + c.toNat * 2 ^ 16 + d.toNat * 2 ^ 24) := by
  apply BitVec.eq_of_toNat_eq
  rw [leWord_four_toNat, BitVec.toNat_ofNat]
  omega

/-- The value of two bytes, lowest first (R13 LE16). -/
theorem leHalf_two_eq_ofNat (a b : Byte) : leHalf [a, b] = BitVec.ofNat 16 (a.toNat + b.toNat * 2 ^ 8) := by
  have hword : leWord [a, b] = leWord [a, b, 0, 0] := rfl
  rw [leHalf, hword, leWord_four_eq_ofNat]
  apply BitVec.eq_of_toNat_eq
  simp

theorem State.frameView_eq (s : State) :
    s.frameView =
      { unit := s.fbByte 25
        func := s.fbByte 26
        plen := s.fbByte 27
        declen := BitVec.ofNat 16 ((s.fbByte 1).toNat + (s.fbByte 2).toNat * 2 ^ 8)
        respSn := BitVec.ofNat 32 ((s.fbByte 7).toNat + (s.fbByte 8).toNat * 2 ^ 8 +
          (s.fbByte 9).toNat * 2 ^ 16 + (s.fbByte 10).toNat * 2 ^ 24)
        respTot := BitVec.ofNat 32 ((s.fbByte 13).toNat + (s.fbByte 14).toNat * 2 ^ 8 +
          (s.fbByte 15).toNat * 2 ^ 16 + (s.fbByte 16).toNat * 2 ^ 24)
        respDay := BitVec.ofNat 32 ((s.fbByte 17).toNat + (s.fbByte 18).toNat * 2 ^ 8 +
          (s.fbByte 19).toNat * 2 ^ 16 + (s.fbByte 20).toNat * 2 ^ 24) } := by
  simp only [← leWord_four_eq_ofNat, ← leHalf_two_eq_ofNat]
  rfl

/-- Settles O28: each row from the checks that pass and the one that fails; the opcode's reserved bits are `w[23:0]`. -/
theorem parseReportsFirstFailingCheck : Obligations.ParseReportsFirstFailingCheck := by
  refine ⟨fun s => ⟨fun hlong => ⟨?_, fun t ht => ?_⟩, fun hcap hshort => ?_, fun hcap hmin hstart => ?_,
    fun hcap hmin hstart hsum => ?_, fun hcap hmin hstart hsum hresidue => ?_,
    fun hcap hmin hstart hsum hresidue hend => ?_, fun hcap hmin hstart hsum hresidue hend => ?_⟩,
    fun s w hp hop => engineStep_of_opcode hp (op := .parse) hop⟩
  · exact parseEndsWith_of_reject ⟨_, State.parseWith_of_long hlong⟩
  · rw [exec_parse_of_long hlong ht, State.reject_unwrittenRead]
  · exact parseEndsWith_of_reject ⟨_, State.parseWith_of_short hcap hshort⟩
  · exact parseEndsWith_of_reject (State.parseWith_badStartMarker hcap hmin hstart)
  · exact parseEndsWith_of_reject (State.parseWith_checksumMismatch hcap hmin hstart hsum)
  · exact parseEndsWith_of_reject (State.parseWith_crcMismatch hcap hmin hstart hsum hresidue)
  · exact parseEndsWith_of_reject (State.parseWith_badEndMarker hcap hmin hstart hsum hresidue hend)
  · rw [← State.frameView_eq]
    exact parseEndsWith_of_accept (State.parseWith_accept hcap hmin hstart hsum hresidue hend)

/-! Acceptance, from the last check to the first (R92). -/

theorem State.parseEnd_ok_iff (s : State) :
    s.parseEnd.status.result = .ok ↔ s.fbByte (s.len.toNat - 1) = 0x15 := by
  by_cases hend : s.fbByte (s.len.toNat - 1) = 0x15
  · rw [State.parseEnd_of_marker hend, State.accept_result]
    exact iff_of_true rfl hend
  · rw [State.parseEnd_of_marker_ne hend, State.reject_result]
    exact iff_of_false nofun hend

theorem State.parseCrc_ok_iff (s : State) :
    s.parseCrc.status.result = .ok ↔ s.frameResidue = 0 ∧ s.fbByte (s.len.toNat - 1) = 0x15 := by
  by_cases hresidue : s.frameResidue = 0
  · rw [State.parseCrc_of_residue hresidue, State.parseEnd_ok_iff]
    exact (and_iff_right hresidue).symm
  · rw [State.parseCrc_of_residue_ne hresidue, State.reject_result]
    exact iff_of_false nofun (mt And.left hresidue)

theorem State.parseSum_ok_iff (s : State) :
    s.parseSum.status.result = .ok ↔ s.frameSum = s.fbByte (s.len.toNat - 2) ∧ s.frameResidue = 0 ∧
      s.fbByte (s.len.toNat - 1) = 0x15 := by
  by_cases hsum : s.frameSum = s.fbByte (s.len.toNat - 2)
  · rw [State.parseSum_of_checksum hsum, State.parseCrc_ok_iff]
    exact (and_iff_right hsum).symm
  · rw [State.parseSum_of_checksum_ne hsum, State.reject_result]
    exact iff_of_false nofun (mt And.left hsum)

theorem State.parseStart_ok_iff (s : State) :
    s.parseStart.status.result = .ok ↔ s.fbByte 0 = 0xA5 ∧ s.frameSum = s.fbByte (s.len.toNat - 2) ∧
      s.frameResidue = 0 ∧ s.fbByte (s.len.toNat - 1) = 0x15 := by
  by_cases hstart : s.fbByte 0 = 0xA5
  · rw [State.parseStart_of_marker hstart, State.parseSum_ok_iff]
    exact (and_iff_right hstart).symm
  · rw [State.parseStart_of_marker_ne hstart, State.reject_result]
    exact iff_of_false nofun (mt And.left hstart)

theorem State.parseWith_ok_iff (minLen : Nat) (s : State) :
    (s.parseWith minLen).status.result = .ok ↔ s.len.toNat ≤ 512 ∧ minLen ≤ s.len.toNat ∧ s.fbByte 0 = 0xA5 ∧
      s.frameSum = s.fbByte (s.len.toNat - 2) ∧ s.frameResidue = 0 ∧ s.fbByte (s.len.toNat - 1) = 0x15 := by
  obtain ⟨hlong, h⟩ | ⟨-, hshort, h⟩ | ⟨hcap, hmin, h⟩ := s.parseWith_cases minLen
  · rw [h, State.reject_result]
    exact iff_of_false nofun (mt And.left (Nat.not_le.mpr hlong))
  · rw [h, State.reject_result]
    exact iff_of_false nofun fun ⟨_, hmin, _⟩ => Nat.not_le.mpr hshort hmin
  · rw [h, State.parseStart_ok_iff, and_iff_right hmin]
    exact (and_iff_right hcap).symm

/-- Settles O29: each check passes or ends PARSE with its own code, and no other check stands between. -/
theorem parseAcceptsOnChecksAlone : Obligations.ParseAcceptsOnChecksAlone := by
  refine fun s => ⟨s.parseWith Config.minLen, rfl, (s.parseWith_ok_iff Config.minLen).trans ⟨?_, ?_⟩⟩
  · rintro ⟨hcap, hmin, hstart, hsum, hresidue, hend⟩
    exact ⟨hmin, hcap, hstart, hend, hsum, hresidue⟩
  · rintro ⟨hmin, hcap, hstart, hend, hsum, hresidue⟩
    exact ⟨hcap, hmin, hstart, hsum, hresidue, hend⟩

/-! One changed byte (R93). -/

/-- The sum tells two byte sequences apart that differ in one byte (R75). -/
theorem sum8_replaced_inj (seed : Byte) (as bs : List Byte) {x y : Byte}
    (h : sum8 seed (as ++ x :: bs) = sum8 seed (as ++ y :: bs)) : x = y := by
  rw [sum8_append, sum8_append, sum8_cons, sum8_cons, sum8_seed _ bs, sum8_seed (_ + y) bs] at h
  exact add_left_cancel (add_right_cancel h)

/-- The same for two readings of a range that differ at one of its indexes. -/
theorem sum8_map_range'_ne {f g : Nat → Byte} {a n i : Nat} (hlo : a ≤ i) (hhi : i < a + n)
    (hother : ∀ j, j ≠ i → f j = g j) (hi : f i ≠ g i) :
    sum8 0 ((List.range' a n).map f) ≠ sum8 0 ((List.range' a n).map g) := by
  obtain ⟨k, rfl⟩ := Nat.exists_eq_add_of_le hlo
  obtain ⟨m, rfl⟩ : ∃ m, n = k + (m + 1) := ⟨n - k - 1, by omega⟩
  have hbefore : (List.range' a k).map f = (List.range' a k).map g :=
    List.map_congr_left fun j hj => hother j (by rw [List.mem_range'_1] at hj; omega)
  have hafter : (List.range' (a + k + 1) m).map f = (List.range' (a + k + 1) m).map g :=
    List.map_congr_left fun j hj => hother j (by rw [List.mem_range'_1] at hj; omega)
  rw [← List.range'_append_1, List.range'_succ, List.map_append, List.map_append, List.map_cons, List.map_cons, hbefore,
    hafter]
  exact fun h => hi (sum8_replaced_inj _ _ _ h)

section

variable (s : State) (i : Nat) (b : Byte)

/-- The state with one FB byte replaced (R93). -/
def State.withByte : State := { s with fb := s.fb.write i b }

theorem State.withByte_fbByte_same : (s.withByte i b).fbByte i = b := by
  rw [State.fbByte, State.withByte, Memory.lookup_write_same, Option.getD_some]

theorem State.withByte_fbByte_other {j : Nat} (h : j ≠ i) : (s.withByte i b).fbByte j = s.fbByte j := by
  rw [State.fbByte, State.withByte, Memory.lookup_write_other _ _ h, State.fbByte]

end

/-- One byte of FB[1..LEN-2] changed: either the stored checksum no longer matches the sum, or the sum the checksum. -/
theorem State.withByte_checksum_ne {s : State} {i : Nat} {b : Byte} (hsum : s.frameSum = s.fbByte (s.len.toNat - 2))
    (hlo : 1 ≤ i) (hhi : i ≤ s.len.toNat - 2) (hb : b ≠ s.fbByte i) :
    (s.withByte i b).frameSum ≠ (s.withByte i b).fbByte (s.len.toNat - 2) := by
  by_cases hlast : i = s.len.toNat - 2
  · have hsame : (s.withByte i b).frameSum = s.frameSum :=
      congrArg (sum8 0) <| List.map_congr_left fun j hj => s.withByte_fbByte_other i b <| by
        obtain ⟨-, hj⟩ : 1 ≤ j ∧ j < 1 + (s.len.toNat - 3) := List.mem_range'_1.mp hj
        omega
    rw [hsame, hsum, ← hlast, State.withByte_fbByte_same]
    exact hb.symm
  · rw [s.withByte_fbByte_other i b (Ne.symm hlast), ← hsum]
    exact sum8_map_range'_ne hlo (n := s.len.toNat - 3) (by omega) (fun j hj => s.withByte_fbByte_other i b hj)
      (by rwa [State.withByte_fbByte_same])

/-- Settles O30: the frame still passes the size and start marker checks, and its checksum no longer matches. -/
theorem singleByteMutationIsCaught : Obligations.SingleByteMutationIsCaught := by
  intro s t i b ht hok hlo hhi hb
  obtain rfl := Host.Outcome.next.inj ht
  obtain ⟨hcap, hmin, hstart, hsum, -, -⟩ := (s.parseWith_ok_iff Config.minLen).mp hok
  have hstart' : (s.withByte i b).fbByte 0 = 0xA5 :=
    (s.withByte_fbByte_other i b (Nat.ne_of_lt hlo)).trans hstart
  obtain ⟨r, h⟩ := State.parseWith_checksumMismatch (s := s.withByte i b) hcap hmin hstart'
    (State.withByte_checksum_ne hsum hlo hhi hb)
  exact ⟨_, congrArg Host.Outcome.next h, rfl, rfl⟩

end Sys2Proof.Machine
end

section
/-! SUPPORT. How commands finish (R95 to R98, R101, R102): every engine step with a word latched completes, the result
codes each opcode can give, and the interrupt output after a finish. -/

namespace Sys2Proof

open Sys2Proof.Machine

/-- The result codes a legal word of an opcode can finish with (spec/60_exceptions.md R97). -/
def Opcode.results : Opcode → List ResultCode
  | .crcSeed | .crcByte | .sumSeed | .sumByte | .build => [.ok]
  | .crcRange | .sumRange => [.ok, .rangeError]
  | .parse =>
    [.ok, .truncatedFrame, .badStartMarker, .checksumMismatch, .crcMismatch, .badEndMarker, .rangeError]

/-- A word whose bits 31:24 number one of the listed opcodes has that opcode (R59, R60). -/
theorem opField_mem_of_toNat_mem {w : Word} (ops : List Opcode)
    (h : (opField w).toNat ∈ ops.map fun op => op.code.toNat) : ∃ op ∈ ops, opField w = op.code := by
  obtain ⟨op, hop, hcode⟩ := List.mem_map.mp h
  exact ⟨op, hop, BitVec.eq_of_toNat_eq hcode.symm⟩

theorem Opcode.code_toNat_mem (op : Opcode) : op.code.toNat ∈ [1, 2, 3, 4, 5, 6, 7, 8] := by cases op <;> decide

end Sys2Proof

namespace Sys2Proof.Machine

open Sys2Proof.Safety

/-! Completion (R95, R98). -/

/-- A finished command is the finish of itself with its own result (R98). -/
theorem Finished.eq_onlyFinished {t : State} (h : Finished t) : t = onlyFinished t.status.result t := by
  obtain ⟨hpending, hbusy, hdone⟩ := h
  rw [onlyFinished, ← hpending, ← hbusy, ← hdone]

/-- Settles O31: `finish` is that update by definition, and every command and engine step leaves a finished state. -/
theorem everyCommandFinishes : Obligations.EveryCommandFinishes := by
  refine ⟨State.finish_eq_onlyFinished, fun i s => ?_, fun s t ht => (engineStep_leaves ht).finished.eq_onlyFinished⟩
  obtain ⟨t, ht, hl⟩ := exec_next_leaves i s
  exact ⟨t, ht, hl.finished.eq_onlyFinished⟩

/-- The engine step faults only with PENDING empty. -/
theorem engineStep_next {s : State} {w : Word} (hp : s.pending = some w) : ∃ t, engineStep s = .next t := by
  obtain ⟨i, -, he⟩ | ⟨e, -, he⟩ := engineStep_cases hp
  · rw [he]; exact exec_next i s
  · exact ⟨_, he⟩

/-- Settles O55: of the cases of a step only the engine's could stop, and BUSY shows that a word is latched. -/
theorem machineNeverStops : Obligations.MachineNeverStops := by
  intro s hinv
  obtain ⟨hs, -⟩ | ⟨hs, hbusy, -⟩ | ⟨hs, -, -⟩ | ⟨hs, -⟩ | ⟨hs, -⟩ := step_cases s
  · exact ⟨_, hs⟩
  · obtain ⟨w, hp⟩ := Option.isSome_iff_exists.mp (hinv.pendingIffBusy.trans hbusy)
    rw [hs]
    exact engineStep_next (s := { s with turns := s.turns.tail }) hp
  · exact ⟨_, hs⟩
  · exact ⟨_, hs⟩
  · exact ⟨_, hs⟩

/-! The result codes of each opcode (R96, R97). -/

theorem State.parseEnd_result_mem (s : State) : s.parseEnd.status.result ∈ Opcode.parse.results := by
  unfold State.parseEnd
  split <;> simp [Opcode.results]

theorem State.parseCrc_result_mem (s : State) : s.parseCrc.status.result ∈ Opcode.parse.results := by
  unfold State.parseCrc
  split
  · exact State.parseEnd_result_mem _
  · simp [Opcode.results]

theorem State.parseSum_result_mem (s : State) : s.parseSum.status.result ∈ Opcode.parse.results := by
  unfold State.parseSum
  split
  · exact State.parseCrc_result_mem _
  · simp [Opcode.results]

theorem State.parseStart_result_mem (s : State) : s.parseStart.status.result ∈ Opcode.parse.results := by
  unfold State.parseStart
  split
  · exact State.parseSum_result_mem _
  · simp [Opcode.results]

theorem State.parseWith_result_mem (minLen : Nat) (s : State) :
    (s.parseWith minLen).status.result ∈ Opcode.parse.results := by
  obtain ⟨-, h⟩ | ⟨-, -, h⟩ | ⟨-, -, h⟩ := s.parseWith_cases minLen <;> rw [h]
  · simp [Opcode.results]
  · simp [Opcode.results]
  · exact s.parseStart_result_mem

/-- A range command finishes with OK, or with RangeError (R74, R78). -/
theorem finish_range_result_mem {inRange : Bool} (s t : State) :
    (if inRange then s.finish .ok else t.finish .rangeError).status.result ∈ [.ok, .rangeError] := by
  cases inRange <;> simp

/-- A command finishes with a code of its opcode's row. -/
theorem exec_result_mem {i : Instr} {s t : State} (h : exec i s = .next t) : t.status.result ∈ i.opcode.results := by
  cases i with
  | crcSeed imm16 => obtain rfl := Host.Outcome.next.inj h; exact List.mem_singleton_self _
  | crcByte imm8 => obtain rfl := Host.Outcome.next.inj h; exact List.mem_singleton_self _
  | crcRange start count => obtain rfl := Host.Outcome.next.inj h; exact finish_range_result_mem _ _
  | sumSeed imm8 => obtain rfl := Host.Outcome.next.inj h; exact List.mem_singleton_self _
  | sumByte imm8 => obtain rfl := Host.Outcome.next.inj h; exact List.mem_singleton_self _
  | sumRange start count => obtain rfl := Host.Outcome.next.inj h; exact finish_range_result_mem _ _
  | build => obtain rfl := exec_build_eq h; exact List.mem_singleton_self _
  | parse => obtain rfl := Host.Outcome.next.inj h; exact s.parseWith_result_mem _

/-- A word of a defined opcode finishes with a code of the opcode's row, or with IllegalCommand for a reserved bit. -/
theorem engineStep_result_of_opcode {s t : State} {w : Word} (hp : s.pending = some w) {op : Opcode}
    (hop : opField w = op.code) (ht : engineStep s = .next t) :
    (w.extractLsb' op.format.operandWidth (24 - op.format.operandWidth) = 0 ∧ t.status.result ∈ op.results) ∨
    (w.extractLsb' op.format.operandWidth (24 - op.format.operandWidth) ≠ 0 ∧ t.status.result = .illegalCommand) := by
  rw [engineStep_of_opcode hp hop] at ht
  split at ht
  · next hres => exact .inl ⟨hres, op.instr_opcode w ▸ exec_result_mem ht⟩
  · next hres => exact .inr ⟨hres, by rw [← Host.Outcome.next.inj ht]; rfl⟩

/-- The engine step of a word whose opcode has only OK for a row (R97). -/
theorem engineStep_result_ok_or_illegal {s t : State} {w : Word} (hp : s.pending = some w)
    (ht : engineStep s = .next t) (hcode : (opField w).toNat ∈ [1, 2, 4, 5, 7]) :
    t.status.result = .ok ∨ t.status.result = .illegalCommand := by
  obtain ⟨op, hmem, hop⟩ := opField_mem_of_toNat_mem [.crcSeed, .crcByte, .sumSeed, .sumByte, .build] hcode
  have hrow : ∀ op ∈ [Opcode.crcSeed, .crcByte, .sumSeed, .sumByte, .build], op.results = [.ok] := by decide
  obtain ⟨-, hr⟩ | ⟨-, hr⟩ := engineStep_result_of_opcode hp hop ht
  · exact .inl (List.mem_singleton.mp (hrow op hmem ▸ hr))
  · exact .inr hr

/-- The engine step of a range command's word: its format has no reserved bits (R97). -/
theorem engineStep_result_ok_or_rangeError {s t : State} {w : Word} (hp : s.pending = some w)
    (ht : engineStep s = .next t) (hcode : (opField w).toNat ∈ [3, 6]) :
    t.status.result = .ok ∨ t.status.result = .rangeError := by
  obtain ⟨op, hmem, hop⟩ := opField_mem_of_toNat_mem [.crcRange, .sumRange] hcode
  have hrow : ∀ op ∈ [Opcode.crcRange, .sumRange],
      op.results = [.ok, .rangeError] ∧ 24 - op.format.operandWidth = 0 := by decide
  obtain ⟨hresults, hwidth⟩ := hrow op hmem
  obtain ⟨-, hr⟩ | ⟨hres, -⟩ := engineStep_result_of_opcode hp hop ht
  · simpa [hresults] using hr
  · exact absurd (BitVec.eq_of_toNat_eq (by simp [hwidth, Nat.mod_one])) hres

/-- PARSE's word is illegal exactly when it has a reserved bit set (R97). -/
theorem engineStep_parse_illegal_iff {s t : State} {w : Word} (hp : s.pending = some w)
    (ht : engineStep s = .next t) (hcode : (opField w).toNat = 8) :
    t.status.result = .illegalCommand ↔ w.extractLsb' 0 24 ≠ 0 := by
  obtain ⟨hres, hr⟩ | ⟨hres, hr⟩ :=
    engineStep_result_of_opcode hp (op := .parse) (BitVec.eq_of_toNat_eq hcode) ht
  · refine iff_of_false (fun hill => ?_) (not_not_intro hres)
    rw [hill] at hr
    exact absurd hr (by decide)
  · exact iff_of_true hr hres

/-- Settles O33: the engine step completes, and its result is one of its opcode's row unless a reserved bit or a reserved
opcode makes the word illegal. -/
theorem resultCodesByOpcode : Obligations.ResultCodesByOpcode := by
  intro s w hp
  obtain ⟨t, ht⟩ := engineStep_next hp
  refine ⟨t, ht, engineStep_result_ok_or_illegal hp ht, engineStep_result_ok_or_rangeError hp ht,
    engineStep_parse_illegal_iff hp ht, fun hop => ?_⟩
  have hill := engineStep_of_no_command hp fun i hd => hop <| by
    rw [← opField, opField_of_decode hd]
    exact i.opcode.code_toNat_mem
  exact congrArg (·.status.result) (Host.Outcome.next.inj (ht.symm.trans hill))

theorem ResultCode.code_toNat_lt (code : ResultCode) : code.code.toNat < 8 := by cases code <;> decide

/-- Settles O32: STATUS holds RESULT in bits 11:8. -/
theorem resultCodeNumbers : Obligations.ResultCodeNumbers := by
  refine ⟨rfl, rfl, rfl, rfl, rfl, rfl, rfl, rfl, fun s => ⟨?_, s.status.result.code_toNat_lt⟩⟩
  obtain ⟨-, -, -, -, -, -, hresult, -⟩ := statusBitsAndWriteOneToClear.1 s
  rw [← hresult, BitVec.extractLsb'_toNat, Nat.shiftRight_eq_div_pow]

/-! The interrupt output (R101, R102). -/

/-- A command ends with DONE set and IE as it was, so with irq = IE (R101). -/
theorem CommandLeaves.irq {i : Instr} {s t : State} (h : CommandLeaves i s t) : t.irq = s.ie := by
  rw [State.irq, h.finished.done, h.same.ie, Bool.and_true]

/-- Settles O50, by the equations of the three register writes and the frame of each command. -/
theorem irqFollowsEnableAndDone : Obligations.IrqFollowsEnableAndDone := by
  refine ⟨fun s => Bool.and_eq_true_iff, fun s w => congrArg State.irq (s.busWrite_ctrl w), fun s w hw => ?_,
    fun s w hb => ?_, fun i s => ?_⟩
  · have hirq : (s.busWrite 0x004 .word w).irq = (s.ie && (s.status.done && !w.getLsbD 1)) :=
      congrArg State.irq (s.busWrite_status w)
    rw [hirq, and_not_of_true hw, Bool.and_false]
  · exact (congrArg State.irq (State.busWrite_cmd_idle hb w)).trans (Bool.and_false s.ie)
  · obtain ⟨t, ht, hl⟩ := exec_next_leaves i s
    exact ⟨t, ht, hl.irq⟩

end Sys2Proof.Machine
end

section
/-! SUPPORT. Reset and the end of BUSY (R112 to R114, R121, R126): the reset event's values, the machine with nothing
left to do, and how soon a latched command is gone under the scheduler of log entry 1. -/

namespace Sys2Proof.Machine

open Sys2Proof.Safety

/-- Settles O51: each value is the one the event writes, and FB is none of them. -/
theorem resetEventRestoresResetValues : Obligations.ResetEventRestoresResetValues := fun s =>
  ⟨rfl, State.fbByte_congr s.resetEvent_fb s.resetEvent_powerOns, rfl⟩

/-- A host with nothing left to do leaves the block as it is (R112, R126). -/
theorem State.hostStep_of_hostOps_eq_nil {s : State} (h : s.hostOps = []) : s.hostStep = s := by
  simp only [State.hostStep, h]

/-- Settles O12: the turn is the host's, which has nothing left to do. -/
theorem idleMachineKeepsState : Obligations.IdleMachineKeepsState := by
  intro s hturns hops hidle
  rw [step_of_hostNext (.inr ⟨hturns, hidle⟩), afterTurn_of_turns_eq_nil hturns, State.hostStep_of_hostOps_eq_nil hops]

/-- The host does not move the scheduler's list (log entries 1 and 3). -/
@[simp] theorem State.hostStep_turns (s : State) : s.hostStep.turns = s.turns := by
  obtain h | ⟨_, _, -, -, h⟩ | ⟨_, _, -, h⟩ | ⟨_, _, -, h⟩ | ⟨_, _, -, -, h⟩ | ⟨_, _, -, -, h⟩ |
    ⟨_, _, _, _, -, -, -, -, h⟩ := s.hostStep_effect
  · rw [h.same]
  all_goals exact (congrArg State.turns h :)

/-- A step with BUSY = 1 ends it (by an engine step, a reset or a power-on), or was a turn of the host's on the
scheduler's list. -/
theorem step_of_busy {s : State} (hinv : Inv s) (hb : s.status.busy = true) :
    ∃ t, step s = .next t ∧ (t.status.busy = false ∨ s.turns = .host :: t.turns) := by
  obtain ⟨t, ht⟩ := machineNeverStops s hinv
  refine ⟨t, ht, ?_⟩
  obtain ⟨hs, hnext⟩ | ⟨hs, -, -⟩ | ⟨-, -, hidle⟩ | ⟨hs, -⟩ | ⟨hs, -⟩ := step_cases s
  · obtain hhead | ⟨-, hidle⟩ := hnext
    · obtain rfl := Host.Outcome.next.inj (hs.symm.trans ht)
      right
      rw [State.hostStep_turns]
      exact (List.cons_head?_tail hhead).symm
    · exact absurd (hb.symm.trans hidle) (by decide)
  · exact .inl (engineStep_leaves (hs.symm.trans ht)).finished.busy
  · exact absurd (hb.symm.trans hidle) (by decide)
  · obtain rfl := Host.Outcome.next.inj (hs.symm.trans ht)
    exact .inl rfl
  · obtain rfl := Host.Outcome.next.inj (hs.symm.trans ht)
    exact .inl rfl

/-- A run that begins with a given step. -/
theorem run_succ_of_step {s t : State} (h : step s = .next t) (k : Nat) :
    Host.Core.run Sys2Proof.core (k + 1) s = Host.Core.run Sys2Proof.core k t := by
  have hcore : Sys2Proof.core.step s = .next t := h
  simp only [Host.Core.run, hcore]

/-- From every state of the invariant BUSY = 0 within one step more than the scheduler's list is long: each step that
does not end BUSY takes a turn off the list. -/
theorem idle_within_turns_succ {s : State} (hinv : Inv s) :
    ∃ k t, k ≤ s.turns.length + 1 ∧ Host.Core.run Sys2Proof.core k s = .next t ∧ t.status.busy = false := by
  cases hb : s.status.busy with
  | false => exact ⟨0, s, Nat.zero_le _, rfl, hb⟩
  | true =>
    obtain ⟨t, hstep, hidle | hturns⟩ := step_of_busy hinv hb
    · exact ⟨1, t, Nat.le_add_left 1 _, run_succ_of_step hstep 0, hidle⟩
    · obtain ⟨k, u, hk, hrun, hidle⟩ := idle_within_turns_succ (hinv.step hstep)
      exact ⟨k + 1, u, by simpa [hturns] using hk, (run_succ_of_step hstep k).trans hrun, hidle⟩
termination_by s.turns.length
decreasing_by simp [hturns]

/-- Settles O15, by induction on the scheduler's list. -/
theorem busyEndsWithinTurnsPlusOne : Obligations.BusyEndsWithinTurnsPlusOne := fun _ hinv _ =>
  idle_within_turns_succ hinv

end Sys2Proof.Machine
end

section
/-! SUPPORT. A command that ends with the record of unwritten reads clear computed nothing from a never-written FB byte
(R115, R117, U1; log entries 5 and 15): what it reads is on record, so it is written, and a written byte does not depend
on the power-on count that selects the free ones. -/

namespace Sys2Proof.Machine

open Sys2Proof.Safety

/-- The state with the never-written FB bytes of another power-on. -/
def State.withPowerOns (k : Nat) (s : State) : State := { s with powerOns := k }

@[simp] theorem State.withPowerOns_len (k : Nat) (s : State) : (s.withPowerOns k).len = s.len := rfl
@[simp] theorem State.withPowerOns_serial (k : Nat) (s : State) : (s.withPowerOns k).serial = s.serial := rfl
@[simp] theorem State.withPowerOns_fb (k : Nat) (s : State) : (s.withPowerOns k).fb = s.fb := rfl

/-- FB[a .. a + n - 1] has been written since power-on (U1). -/
def State.AllWritten (s : State) (a n : Nat) : Prop := ∀ i, a ≤ i → i < a + n → s.fbWritten i = true

theorem State.AllWritten.sub {s : State} {a n : Nat} (h : s.AllWritten a n) {b m : Nat} (hlo : a ≤ b)
    (hhi : b + m ≤ a + n) : s.AllWritten b m := fun i hb hm => h i (by omega) (by omega)

/-! What is read from written bytes alone. -/

section

variable {s : State} {a n : Nat} (h : s.AllWritten a n) (k : Nat)
include h

theorem State.fbByte_withPowerOns {i : Nat} (hlo : a ≤ i) (hhi : i < a + n) :
    (s.withPowerOns k).fbByte i = s.fbByte i := by
  obtain ⟨b, hb⟩ := Option.isSome_iff_exists.mp (h i hlo hhi)
  rw [State.fbByte, State.fbByte, State.withPowerOns_fb, hb, Option.getD_some, Option.getD_some]

theorem State.fbBytes_withPowerOns : (s.withPowerOns k).fbBytes a n = s.fbBytes a n := by
  refine List.map_congr_left fun i hi => ?_
  obtain ⟨hlo, hhi⟩ := List.mem_range'_1.mp hi
  exact State.fbByte_withPowerOns h k hlo hhi

end

section

variable {s : State} (h : s.AllWritten 1 27) (k : Nat)
include h

/-- The view is read from FB[1..27] (R90). -/
theorem State.frameView_withPowerOns : (s.withPowerOns k).frameView = s.frameView := by
  have hbyte : ∀ i, 1 ≤ i → i < 1 + 27 → (s.withPowerOns k).fbByte i = s.fbByte i := fun i =>
    State.fbByte_withPowerOns h k
  have hbytes : ∀ a n, 1 ≤ a → a + n ≤ 1 + 27 → (s.withPowerOns k).fbBytes a n = s.fbBytes a n := fun a n ha hn =>
    State.fbBytes_withPowerOns (h.sub ha hn) k
  simp [State.frameView, hbyte, hbytes]

/-- The view is all that `accept()` reads from FB (R90). -/
theorem State.accept_withPowerOns : (s.withPowerOns k).accept = s.accept.withPowerOns k := by
  rw [State.accept, State.frameView_withPowerOns h k]
  rfl

end

/-! A clear record: the bytes read are written, and no earlier read set it. -/

theorem State.noteReads_clear {s : State} {a n : Nat} (h : (s.noteReads a n).unwrittenRead = false) :
    s.unwrittenRead = false := by
  rw [State.noteReads_unwrittenRead, Bool.or_eq_false_iff] at h
  exact h.1

theorem State.noteReads_written {s : State} {a n : Nat} (h : (s.noteReads a n).unwrittenRead = false) :
    s.AllWritten a n := by
  intro i hlo hhi
  by_contra hw
  have hset : (s.noteReads a n).unwrittenRead = true := (s.noteReads_unwrittenRead_iff a n).mpr
    (.inr ⟨i - a, by omega, by rw [Nat.add_sub_cancel' hlo]; exact Bool.eq_false_iff.mpr hw⟩)
  exact absurd (h.symm.trans hset) (by decide)

/-! PARSE, from the last check to the first: where it ends with the record clear, so was the record when each check had
read its bytes, and the check goes the same way with any other free bytes. -/

section

variable {s : State}

theorem State.parseEnd_reads_clear (h : s.parseEnd.unwrittenRead = false) :
    (s.noteReads (s.len.toNat - 1) 1).unwrittenRead = false := by
  unfold State.parseEnd at h
  split at h
  · exact h
  · exact h

theorem State.parseCrc_reads_clear (h : s.parseCrc.unwrittenRead = false) :
    (s.noteReads 25 (5 + (s.fbByte 27).toNat)).unwrittenRead = false := by
  unfold State.parseCrc at h
  split at h
  · exact (State.noteReads_clear (State.parseEnd_reads_clear h) :)
  · exact h

theorem State.parseSum_reads_clear (h : s.parseSum.unwrittenRead = false) :
    (s.noteReads 1 (s.len.toNat - 2)).unwrittenRead = false := by
  unfold State.parseSum at h
  split at h
  · exact (State.noteReads_clear (State.parseCrc_reads_clear h) :)
  · exact h

theorem State.parseStart_reads_clear (h : s.parseStart.unwrittenRead = false) :
    (s.noteReads 0 1).unwrittenRead = false := by
  unfold State.parseStart at h
  split at h
  · exact State.noteReads_clear (State.parseSum_reads_clear h)
  · exact h

variable (k : Nat)

theorem State.parseEnd_withPowerOns (h : s.parseEnd.unwrittenRead = false)
    (hview : s.AllWritten 1 27) : (s.withPowerOns k).parseEnd = s.parseEnd.withPowerOns k := by
  have hread := State.noteReads_written (State.parseEnd_reads_clear h)
  have hend : (s.withPowerOns k).fbByte (s.len.toNat - 1) = s.fbByte (s.len.toNat - 1) :=
    State.fbByte_withPowerOns hread k (Nat.le_refl _) (Nat.lt_succ_self _)
  by_cases hmarker : s.fbByte (s.len.toNat - 1) = 0x15
  · rw [State.parseEnd_of_marker hmarker, State.parseEnd_of_marker (s := s.withPowerOns k) (hend.trans hmarker)]
    exact State.accept_withPowerOns (s := s.noteReads (s.len.toNat - 1) 1) hview k
  · rw [State.parseEnd_of_marker_ne hmarker,
      State.parseEnd_of_marker_ne (s := s.withPowerOns k) (hend.trans_ne hmarker)]
    rfl

theorem State.parseCrc_withPowerOns (h : s.parseCrc.unwrittenRead = false)
    (hview : s.AllWritten 1 27) : (s.withPowerOns k).parseCrc = s.parseCrc.withPowerOns k := by
  have hread := State.noteReads_written (State.parseCrc_reads_clear h)
  have hlength : (s.withPowerOns k).fbByte 27 = s.fbByte 27 :=
    State.fbByte_withPowerOns hview k (by decide) (by decide)
  have hresidue : (s.withPowerOns k).frameResidue = s.frameResidue := by
    rw [State.frameResidue, State.frameResidue, hlength, State.fbBytes_withPowerOns hread k]
  by_cases hzero : s.frameResidue = 0
  · rw [State.parseCrc_of_residue hzero] at h ⊢
    rw [State.parseCrc_of_residue (hresidue.trans hzero), hresidue, hlength]
    exact (State.parseEnd_withPowerOns k h hview :)
  · rw [State.parseCrc_of_residue_ne hzero, State.parseCrc_of_residue_ne (hresidue.trans_ne hzero), hresidue, hlength]
    rfl

/-- With LEN at least 32 the bytes of check 3, FB[1..LEN - 2], hold the length byte and the view (R87, R90). -/
theorem State.parseSum_withPowerOns (h : s.parseSum.unwrittenRead = false) (hlen : 32 ≤ s.len.toNat) :
    (s.withPowerOns k).parseSum = s.parseSum.withPowerOns k := by
  have hread := State.noteReads_written (State.parseSum_reads_clear h)
  have hsum : (s.withPowerOns k).frameSum = s.frameSum := by
    rw [State.frameSum, State.frameSum, State.withPowerOns_len,
      State.fbBytes_withPowerOns (hread.sub (Nat.le_refl 1) (by omega)) k]
  have hstored : (s.withPowerOns k).fbByte (s.len.toNat - 2) = s.fbByte (s.len.toNat - 2) :=
    State.fbByte_withPowerOns hread k (by omega) (by omega)
  have hview : s.AllWritten 1 27 := hread.sub (Nat.le_refl 1) (by omega)
  by_cases hcheck : s.frameSum = s.fbByte (s.len.toNat - 2)
  · rw [State.parseSum_of_checksum hcheck] at h ⊢
    rw [State.parseSum_of_checksum (hsum.trans (hcheck.trans hstored.symm)), hsum]
    exact (State.parseCrc_withPowerOns k h hview :)
  · rw [State.parseSum_of_checksum_ne hcheck,
      State.parseSum_of_checksum_ne (hsum.trans_ne (Ne.trans_eq hcheck hstored.symm)), hsum]
    rfl

theorem State.parseStart_withPowerOns (h : s.parseStart.unwrittenRead = false) (hlen : 32 ≤ s.len.toNat) :
    (s.withPowerOns k).parseStart = s.parseStart.withPowerOns k := by
  have hread := State.noteReads_written (State.parseStart_reads_clear h)
  have hstart : (s.withPowerOns k).fbByte 0 = s.fbByte 0 :=
    State.fbByte_withPowerOns hread k (by decide) (by decide)
  by_cases hmarker : s.fbByte 0 = 0xA5
  · rw [State.parseStart_of_marker hmarker] at h ⊢
    rw [State.parseStart_of_marker (hstart.trans hmarker)]
    exact (State.parseSum_withPowerOns k h hlen :)
  · rw [State.parseStart_of_marker_ne hmarker, State.parseStart_of_marker_ne (hstart.trans_ne hmarker)]
    rfl

/-- The two size checks read no FB byte (R84, R85); MIN_LEN is at least 32 (R7). -/
theorem State.parseWith_withPowerOns (h : (s.parseWith Config.minLen).unwrittenRead = false) :
    (s.withPowerOns k).parseWith Config.minLen = (s.parseWith Config.minLen).withPowerOns k := by
  obtain ⟨hlong, heq⟩ | ⟨hcap, hshort, heq⟩ | ⟨hcap, hmin, heq⟩ := s.parseWith_cases Config.minLen
  · rw [heq, State.parseWith_of_long (s := s.withPowerOns k) hlong]
    rfl
  · rw [heq, State.parseWith_of_short (s := s.withPowerOns k) hcap hshort]
    rfl
  · rw [heq] at h ⊢
    rw [State.parseWith_of_size (s := s.withPowerOns k) hcap hmin]
    exact State.parseStart_withPowerOns k h (Config.minLen_bounds.1.trans hmin)

end

/-! The commands. -/

/-- A finish that writes the fields BUILD writes does not look at the power-on count. -/
theorem onlyFinished_withPowerOns (k : Nat) (code : ResultCode) (s : State) (fb : Memory) (len crc : Half)
    (sum : Byte) :
    onlyFinished code { s.withPowerOns k with fb := fb, len := len, crc := crc, sum := sum } =
      (onlyFinished code { s with fb := fb, len := len, crc := crc, sum := sum }).withPowerOns k := rfl

theorem State.buildWith_withPowerOns (k : Nat) (template : Nat → Byte) (s : State) :
    (s.withPowerOns k).buildWith template = (s.buildWith template).withPowerOns k := by
  rw [State.buildWith_eq_onlyFinished, State.buildWith_eq_onlyFinished, State.withPowerOns_fb,
    State.withPowerOns_serial]
  exact onlyFinished_withPowerOns k .ok s _ _ _ _

/-- A command that ends with the record clear ends the same with any other free bytes: the two range commands read what
they record, PARSE likewise check by check, and the other five read no FB byte. -/
theorem exec_withPowerOns {i : Instr} {s t : State} (h : exec i s = .next t) (hclear : t.unwrittenRead = false)
    (k : Nat) : exec i (s.withPowerOns k) = .next (t.withPowerOns k) := by
  cases i with
  | crcSeed imm16 => cases h; rfl
  | crcByte imm8 => cases h; rfl
  | crcRange a n =>
    by_cases hin : a + n ≤ 512
    · rw [exec_crcRange_in hin] at h ⊢
      cases h
      rw [State.fbBytes_withPowerOns (State.noteReads_written hclear) k]
      rfl
    · rw [exec_crcRange_out (by omega)] at h ⊢
      cases h; rfl
  | sumSeed imm8 => cases h; rfl
  | sumByte imm8 => cases h; rfl
  | sumRange a n =>
    by_cases hin : a + n ≤ 512
    · rw [exec_sumRange_in hin] at h ⊢
      cases h
      rw [State.fbBytes_withPowerOns (State.noteReads_written hclear) k]
      rfl
    · rw [exec_sumRange_out (by omega)] at h ⊢
      cases h; rfl
  | build =>
    rw [exec_build_eq h]
    exact congrArg Host.Outcome.next (State.buildWith_withPowerOns k Config.template s)
  | parse =>
    obtain rfl : s.parseWith Config.minLen = t := Host.Outcome.next.inj h
    exact congrArg Host.Outcome.next (State.parseWith_withPowerOns k hclear)

/-- Settles O57, by the commands' equation for the state with the other power-on count. -/
theorem writtenBytesDecideResults : Obligations.WrittenBytesDecideResults := fun _ _ _ k h hclear =>
  exec_withPowerOns h hclear k

end Sys2Proof.Machine
end

section
/-! SUPPORT. The range commands' record of unwritten reads (R115, U1; log entry 5), and who steps, with power-on and the
reset state (R14, R113, R115). -/

namespace Sys2Proof.Machine

open Sys2Proof.Safety

/-! The record of unwritten reads. -/

theorem State.fbWritten_eq_false_iff (s : State) (i : Nat) : s.fbWritten i = false ↔ s.fb.lookup i = none :=
  Option.isSome_eq_false_iff.trans Option.isNone_iff_eq_none

/-- Reading FB[a .. a + n - 1] is on record exactly when one of these indexes was never written (R115, log entry 5). -/
theorem State.noteReads_unwrittenRead_iff_lookup (s : State) (a n : Nat) :
    (s.noteReads a n).unwrittenRead = true ↔
      s.unwrittenRead = true ∨ ∃ k, a ≤ k ∧ k < a + n ∧ s.fb.lookup k = none := by
  rw [s.noteReads_unwrittenRead_iff a n]
  refine or_congr_right ⟨fun ⟨k, hk, hw⟩ => ?_, fun ⟨k, hlo, hhi, hnone⟩ => ?_⟩
  · exact ⟨a + k, Nat.le_add_right a k, Nat.add_lt_add_left hk a, (s.fbWritten_eq_false_iff _).mp hw⟩
  · obtain ⟨j, rfl⟩ := Nat.exists_eq_add_of_le hlo
    exact ⟨j, Nat.lt_of_add_lt_add_left hhi, (s.fbWritten_eq_false_iff _).mpr hnone⟩

/-- A range command in range records what reading its range records (R74, R78, log entry 5). -/
theorem exec_range_unwrittenRead {i : Instr} {a n : Nat} (hi : i = .crcRange a n ∨ i = .sumRange a n)
    (hin : a + n ≤ 512) (s : State) :
    ∃ t, exec i s = .next t ∧ t.unwrittenRead = (s.noteReads a n).unwrittenRead := by
  obtain rfl | rfl := hi
  · exact ⟨_, exec_crcRange_in hin s, rfl⟩
  · exact ⟨_, exec_sumRange_in hin s, rfl⟩

/-- Settles O58: the record is the one of reading the range. -/
theorem rangeCommandsRecordUnwrittenReads : Obligations.RangeCommandsRecordUnwrittenReads := by
  intro i s a n hi hin
  obtain ⟨t, ht, hrecord⟩ := exec_range_unwrittenRead hi hin s
  refine ⟨t, ht, ?_⟩
  rw [hrecord]
  exact s.noteReads_unwrittenRead_iff_lookup a n

/-! Who steps (log entries 1, 2, 3 and 7). -/

/-- The step of a listed turn (R14). -/
theorem step_of_head?_turns {s : State} {t : Turn} (h : s.turns.head? = some t) :
    step s = takeTurn t (afterTurn s) := by
  rw [step_eq_takeTurn_nextTurn, nextTurn, h, Option.getD_some]

/-- A turn of an idle engine passes (R14, log entry 2). -/
theorem takeTurn_engine_idle {s : State} (hb : s.status.busy = false) : takeTurn .engine s = .next s := by
  simp [takeTurn, engineTurn, hb]

/-- The host's step is its next action, the action taken off its list (log entry 3). -/
theorem State.hostStep_of_hostOps_eq_cons {s : State} {op : HostOp} {rest : List HostOp} (h : s.hostOps = op :: rest) :
    s.hostStep = State.hostAct op { s with hostOps := rest } := by
  simp only [State.hostStep, h]

/-- The step when the host is next and has an action left (R14, log entry 3). -/
theorem step_of_hostNext_cons {s : State} {op : HostOp} {rest : List HostOp} (h : hostNext s)
    (hops : s.hostOps = op :: rest) : step s = .next (State.hostAct op { afterTurn s with hostOps := rest }) := by
  rw [step_of_hostNext h, State.hostStep_of_hostOps_eq_cons (s := afterTurn s) hops]

/-- Settles O11: the engine's step, its passing turn, the host's read, write and empty list, reset and power-on. -/
theorem turnDecidesWhoSteps : Obligations.TurnDecidesWhoSteps := by
  refine ⟨fun s => step_of_engineNext, fun s hturn hb => ?_, fun s a z rest => step_of_hostNext_cons,
    fun s a z v rest => step_of_hostNext_cons, fun s hnext hops => ?_, fun s => step_of_head?_turns,
    fun s => step_of_head?_turns⟩
  · exact (step_of_head?_turns hturn).trans (takeTurn_engine_idle (s := afterTurn s) hb)
  · rw [step_of_hostNext hnext, State.hostStep_of_hostOps_eq_nil (s := afterTurn s) hops]

/-! Power-on and the reset state. -/

/-- After power-on no FB byte is written (R115). -/
theorem State.fbWritten_powerOnEvent (s : State) (i : Nat) : s.powerOnEvent.fbWritten i = false := by
  rw [State.fbWritten_eq_false_iff, State.powerOnEvent_fb, Memory.lookup_nil]

/-- Settles O52: FB is empty, and each other value is the one the event writes or keeps. -/
theorem powerOnForgetsFrameBuffer : Obligations.PowerOnForgetsFrameBuffer := fun s =>
  ⟨s.fbWritten_powerOnEvent, rfl⟩

/-- Settles O53: FB lists no byte, nothing is latched, and the view is zero. -/
theorem resetStateMeetsInvariant : Obligations.ResetStateMeetsInvariant where
  fbCanonical := rfl
  pendingIffBusy := rfl
  doneMeansIdle := fun _ => rfl
  noStaleView := fun _ => rfl

end Sys2Proof.Machine
end
